-- ==== Sys2Proof/Word.lean ====
section
/-! DEFINITION. The widths of the hardware (spec 00_scope.md R4, 10_state.md) and nothing else. -/

namespace Sys2Proof

/-- XLEN: a V register, a timer, a byte of memory, the immediate `kk`. -/
abbrev Byte := BitVec 8

/-- ILEN, I_WIDTH, PC_WIDTH: an instruction word, `I`, `PC`, a stack entry. -/
abbrev Word := BitVec 16

/-- The immediate `nnn` (R61). -/
abbrev Addr12 := BitVec 12

/-- The immediate `n` (R61). -/
abbrev Nibble := BitVec 4

/-- The number of a V register: a 4-bit field, so no index is out of range (R10). -/
abbrev RegIdx := Fin 16

end Sys2Proof
end

