-- ==== Sys2Proof/Syntax.lean ====
section
/-! DEFINITION. The instruction set: one constructor for each of the 34 rows of spec/opcode_table.json
(30_encoding.md R66), in the table's order. Every operand type holds exactly the values its field can (R63, R68). -/

namespace Sys2Proof

inductive Instr
  /-- CLS, 00E0 (R130) -/
  | cls
  /-- RET, 00EE (R90) -/
  | ret
  /-- JP nnn, 1nnn (R91) -/
  | jp (nnn : Addr12)
  /-- CALL nnn, 2nnn (R92) -/
  | call (nnn : Addr12)
  /-- SE Vx,kk, 3xkk (R94) -/
  | seImm (x : RegIdx) (kk : Byte)
  /-- SNE Vx,kk, 4xkk (R95) -/
  | sneImm (x : RegIdx) (kk : Byte)
  /-- SE Vx,Vy, 5xy0 (R96) -/
  | seReg (x y : RegIdx)
  /-- LD Vx,kk, 6xkk (R105) -/
  | ldImm (x : RegIdx) (kk : Byte)
  /-- ADD Vx,kk, 7xkk (R106) -/
  | addImm (x : RegIdx) (kk : Byte)
  /-- LD Vx,Vy, 8xy0 (R107) -/
  | ldReg (x y : RegIdx)
  /-- OR Vx,Vy, 8xy1 (R108) -/
  | orReg (x y : RegIdx)
  /-- AND Vx,Vy, 8xy2 (R109) -/
  | andReg (x y : RegIdx)
  /-- XOR Vx,Vy, 8xy3 (R110) -/
  | xorReg (x y : RegIdx)
  /-- ADD Vx,Vy, 8xy4 (R111) -/
  | addReg (x y : RegIdx)
  /-- SUB Vx,Vy, 8xy5 (R112) -/
  | subReg (x y : RegIdx)
  /-- SHR Vx then optionally Vy, 8xy6 (R113); `y` is encoded and ignored (R69) -/
  | shr (x y : RegIdx)
  /-- SUBN Vx,Vy, 8xy7 (R114) -/
  | subnReg (x y : RegIdx)
  /-- SHL Vx then optionally Vy, 8xyE (R115); `y` is encoded and ignored (R69) -/
  | shl (x y : RegIdx)
  /-- SNE Vx,Vy, 9xy0 (R97) -/
  | sneReg (x y : RegIdx)
  /-- LD I,nnn, Annn (R120) -/
  | ldI (nnn : Addr12)
  /-- JP V0,nnn, Bnnn (R93) -/
  | jpV0 (nnn : Addr12)
  /-- RND Vx,kk, Cxkk (R147) -/
  | rnd (x : RegIdx) (kk : Byte)
  /-- DRW Vx,Vy,n, Dxyn (R131) -/
  | drw (x y : RegIdx) (n : Nibble)
  /-- SKP Vx, Ex9E (R144) -/
  | skp (x : RegIdx)
  /-- SKNP Vx, ExA1 (R145) -/
  | sknp (x : RegIdx)
  /-- LD Vx,DT, Fx07 (R141) -/
  | ldVxDt (x : RegIdx)
  /-- LD Vx,K, Fx0A (R146) -/
  | ldVxK (x : RegIdx)
  /-- LD DT,Vx, Fx15 (R142) -/
  | ldDtVx (x : RegIdx)
  /-- LD ST,Vx, Fx18 (R143) -/
  | ldStVx (x : RegIdx)
  /-- ADD I,Vx, Fx1E (R121) -/
  | addI (x : RegIdx)
  /-- LD F,Vx, Fx29 (R122) -/
  | ldF (x : RegIdx)
  /-- LD B,Vx, Fx33 (R123) -/
  | ldB (x : RegIdx)
  /-- LD [I],Vx, Fx55 (R124) -/
  | ldMemVx (x : RegIdx)
  /-- LD Vx,[I], Fx65 (R125) -/
  | ldVxMem (x : RegIdx)
deriving DecidableEq, Repr

end Sys2Proof
end

