-- ==== Sys2Proof/Config.lean ====
section
/-! DEFINITION. What the source fixes for this hardware (spec 00_scope.md R4, the rows marked "source"), the parameters
that the spec decides (the rows marked "decision") and the free value of the model. The decided values of the
parameters are in Machine/Params.lean. -/

namespace Sys2Proof.Config

/-- MEM_SIZE: addresses 0x000 to 0xFFF. -/
abbrev memSize : Nat := 4096

/-- PROG_BASE: where Load puts a program, and the reset value of PC. -/
abbrev progBase : Nat := 0x200

/-- ROM_MAX: the most program bytes a Load copies. -/
abbrev romMax : Nat := 3584

/-- NREGS. -/
abbrev numRegs : Nat := 16

/-- STACK_DEPTH. -/
abbrev stackDepth : Nat := 16

/-- NKEYS. -/
abbrev numKeys : Nat := 16

/-- DISP_W: framebuffer columns. -/
abbrev dispW : Nat := 64

/-- The alternatives of DISP_H: 32 rows, or 64, the only other value the source names (R4, R137, D1). -/
inductive DispH
  | rows32
  | rows64
deriving DecidableEq, Repr

/-- The alternatives of SHIFT_SRC (R4, decision D12): the operand that SHR and SHL shift. -/
inductive ShiftSrc
  | vx
  | vy
deriving DecidableEq, Repr

/-- The alternatives of OOR_POLICY: the spec gives the one value `fault` (93_implementation_defined.md U4). -/
inductive OorPolicy
  | fault
deriving DecidableEq, Repr

/-- The parameters of R4 that the spec decides, as configuration fields (R27, R137, 92_eei_decisions.md). Each type
holds exactly the values the spec allows. -/
structure Params where
  /-- DISP_H: framebuffer rows (D1) -/
  dispH : DispH
  /-- GLYPH_BASE: the address of the glyph of digit 0, with `GLYPH_BASE + 80 <= 0x200` (D2) -/
  glyphBase : Fin 433
  /-- FONT: 16 glyphs of 5 bytes, digit by digit, top row first (R25, R27, D3) -/
  font : Vector Byte 80
  /-- SHIFT_SRC: the operand SHR and SHL shift (D12) -/
  shiftSrc : ShiftSrc
  /-- OOR_POLICY: what an out-of-range memory reference does (D7) -/
  oorPolicy : OorPolicy
deriving DecidableEq, Repr

/-- FREE VALUE (log entry 2): the random byte the host supplies with the k-th Step that names none (R153, U10, O2).
No body: any byte at every k, under no law. -/
opaque rndByte : Nat → Byte

end Sys2Proof.Config
end

