-- ==== Sys2Proof/WellFormed.lean ====
section
/-! DEFINITION. Well-formedness checks, written from the spec's own lists and not from the decoder.
The operand types of `Instr` hold exactly the legal operand values ("In every format all 16 values of x and of y are
legal", R68), so there is no ill-formed term of `Instr`; what can be ill-formed is an instruction WORD (R70) and a
choice of the spec's parameters (R4, D1, D2). -/

namespace Sys2Proof.WellFormed

/-- Group 0: only the two exact words 0x00E0 and 0x00EE (R71). -/
def group0 (w : Word) : Bool := w == 0x00E0 || w == 0x00EE

/-- Groups 5 and 9: the trailing nibble must be 0 (R72). -/
def group59 (n : Nat) : Bool := n == 0

/-- Group 8: no operation is assigned to the trailing nibbles 8 to D and F (R70). -/
def group8 (n : Nat) : Bool := !([8, 9, 0xA, 0xB, 0xC, 0xD, 0xF].contains n)

/-- Group E: the trailing byte is 9E or A1 (R70). -/
def groupE (kk : Nat) : Bool := [0x9E, 0xA1].contains kk

/-- Group F: the trailing bytes of R70. -/
def groupF (kk : Nat) : Bool := [0x07, 0x0A, 0x15, 0x18, 0x1E, 0x29, 0x33, 0x55, 0x65].contains kk

/-- A word that is not in R70's list of unsupported words. -/
def word (w : Word) : Bool :=
  let g := w.toNat / 0x1000
  let kk := w.toNat % 0x100
  let n := w.toNat % 0x10
  if g = 0 then group0 w
  else if g = 5 ∨ g = 9 then group59 n
  else if g = 8 then group8 n
  else if g = 0xE then groupE kk
  else if g = 0xF then groupF kk
  else true

/-- D2: the font lies in the reserved low region. -/
def glyphBase (base : Nat) : Bool := base + 80 ≤ Config.progBase

/-- R25: 16 glyphs of 5 bytes. -/
def font (bytes : List Byte) : Bool := bytes.length == 80

/-- D1, R134: the height divides 256 and is at least 32. -/
def dispH (h : Nat) : Bool := 256 % h == 0 && 32 ≤ h

end Sys2Proof.WellFormed
end

