-- ==== Sys2Proof/Decode.lean ====
section
/-! DEFINITION. Decoding and encoding (spec 30_encoding.md). ONE table holds the opcode numbers: `Instr.row`, the
34 (mask, match) pairs of R66. The decoder and the encoder both read it. -/

namespace Sys2Proof

/-- The six formats of R62. -/
inductive Format
  | z
  | a
  | xk
  | xyn
  | xy
  | x
deriving DecidableEq, Repr

/-- The bits a format fixes (R62). -/
def Format.mask : Format → Word
  | .z => 0xFFFF
  | .a => 0xF000
  | .xk => 0xF000
  | .xyn => 0xF000
  | .xy => 0xF00F
  | .x => 0xF0FF

/-- A row of R66: its format and the value of the fixed bits. -/
structure OpcodeRow where
  format : Format
  value : Word
deriving DecidableEq, Repr

/-- The opcode map of R66, row by row. -/
def Instr.row : Instr → OpcodeRow
  | .cls => ⟨.z, 0x00E0⟩
  | .ret => ⟨.z, 0x00EE⟩
  | .jp _ => ⟨.a, 0x1000⟩
  | .call _ => ⟨.a, 0x2000⟩
  | .seImm _ _ => ⟨.xk, 0x3000⟩
  | .sneImm _ _ => ⟨.xk, 0x4000⟩
  | .seReg _ _ => ⟨.xy, 0x5000⟩
  | .ldImm _ _ => ⟨.xk, 0x6000⟩
  | .addImm _ _ => ⟨.xk, 0x7000⟩
  | .ldReg _ _ => ⟨.xy, 0x8000⟩
  | .orReg _ _ => ⟨.xy, 0x8001⟩
  | .andReg _ _ => ⟨.xy, 0x8002⟩
  | .xorReg _ _ => ⟨.xy, 0x8003⟩
  | .addReg _ _ => ⟨.xy, 0x8004⟩
  | .subReg _ _ => ⟨.xy, 0x8005⟩
  | .shr _ _ => ⟨.xy, 0x8006⟩
  | .subnReg _ _ => ⟨.xy, 0x8007⟩
  | .shl _ _ => ⟨.xy, 0x800E⟩
  | .sneReg _ _ => ⟨.xy, 0x9000⟩
  | .ldI _ => ⟨.a, 0xA000⟩
  | .jpV0 _ => ⟨.a, 0xB000⟩
  | .rnd _ _ => ⟨.xk, 0xC000⟩
  | .drw _ _ _ => ⟨.xyn, 0xD000⟩
  | .skp _ => ⟨.x, 0xE09E⟩
  | .sknp _ => ⟨.x, 0xE0A1⟩
  | .ldVxDt _ => ⟨.x, 0xF007⟩
  | .ldVxK _ => ⟨.x, 0xF00A⟩
  | .ldDtVx _ => ⟨.x, 0xF015⟩
  | .ldStVx _ => ⟨.x, 0xF018⟩
  | .addI _ => ⟨.x, 0xF01E⟩
  | .ldF _ => ⟨.x, 0xF029⟩
  | .ldB _ => ⟨.x, 0xF033⟩
  | .ldMemVx _ => ⟨.x, 0xF055⟩
  | .ldVxMem _ => ⟨.x, 0xF065⟩

/-! ### The fields of a word (R61) -/

/-- `op[11:8]` -/
def fieldX (op : Word) : RegIdx := (op.extractLsb' 8 4).toFin

/-- `op[7:4]` -/
def fieldY (op : Word) : RegIdx := (op.extractLsb' 4 4).toFin

/-- `op[3:0]` -/
def fieldN (op : Word) : Nibble := op.extractLsb' 0 4

/-- `op[7:0]` -/
def fieldKK (op : Word) : Byte := op.extractLsb' 0 8

/-- `op[11:0]` -/
def fieldNNN (op : Word) : Addr12 := op.extractLsb' 0 12

/-! ### Decoding -/

/-- What each row of R66 would read from `op`: its instruction with the fields cut out of `op`. -/
def candidates (op : Word) : List Instr :=
  let x := fieldX op
  let y := fieldY op
  let n := fieldN op
  let kk := fieldKK op
  let nnn := fieldNNN op
  [.cls, .ret, .jp nnn, .call nnn, .seImm x kk, .sneImm x kk, .seReg x y, .ldImm x kk, .addImm x kk,
    .ldReg x y, .orReg x y, .andReg x y, .xorReg x y, .addReg x y, .subReg x y, .shr x y, .subnReg x y, .shl x y,
    .sneReg x y, .ldI nnn, .jpV0 nnn, .rnd x kk, .drw x y n, .skp x, .sknp x, .ldVxDt x, .ldVxK x,
    .ldDtVx x, .ldStVx x, .addI x, .ldF x, .ldB x, .ldMemVx x, .ldVxMem x]

/-- `(op AND mask) = match` (R64). -/
def OpcodeRow.matches (r : OpcodeRow) (op : Word) : Bool := (op &&& r.format.mask) == r.value

/-- Decode (R64, R82): the instruction of the row that `op` matches; `none` for an unsupported opcode (R70). -/
def decode (op : Word) : Option Instr := (candidates op).find? fun i => i.row.matches op

/-- What decoding a sequence of bytes gives. -/
inductive Decoded
  /-- an instruction and the bytes after it -/
  | instr (i : Instr) (rest : List Byte)
  /-- two bytes that are the word of no instruction (R70) -/
  | unsupportedOpcode (op : Word)
  /-- fewer than two bytes: no word (R42) -/
  | truncated
deriving DecidableEq, Repr

/-- The word of two bytes: the byte at the lower address is the high byte (R42). -/
def wordOfBytes (hi lo : Byte) : Word := hi ++ lo

/-- Decode total on any bytes: one 16-bit big-endian word (R60). -/
def decodeBytes : List Byte → Decoded
  | hi :: lo :: rest =>
    match decode (wordOfBytes hi lo) with
    | some i => .instr i rest
    | none => .unsupportedOpcode (wordOfBytes hi lo)
  | [_] => .truncated
  | [] => .truncated

/-! ### Encoding -/

/-- A V register number in `op[11:8]`. -/
def placeX (x : RegIdx) : Word := BitVec.ofNat 16 x.val <<< 8

/-- A V register number in `op[7:4]`. -/
def placeY (y : RegIdx) : Word := BitVec.ofNat 16 y.val <<< 4

/-- The operand bits of an instruction, by its format (R62). -/
def Instr.operandBits : Instr → Word
  | .cls | .ret => 0
  | .jp nnn | .call nnn | .ldI nnn | .jpV0 nnn => nnn.setWidth 16
  | .seImm x kk | .sneImm x kk | .ldImm x kk | .addImm x kk | .rnd x kk => placeX x ||| kk.setWidth 16
  | .drw x y n => placeX x ||| placeY y ||| n.setWidth 16
  | .seReg x y | .sneReg x y | .ldReg x y | .orReg x y | .andReg x y | .xorReg x y => placeX x ||| placeY y
  | .addReg x y | .subReg x y | .shr x y | .subnReg x y | .shl x y => placeX x ||| placeY y
  | .skp x | .sknp x | .ldVxDt x | .ldVxK x | .ldDtVx x | .ldStVx x => placeX x
  | .addI x | .ldF x | .ldB x | .ldMemVx x | .ldVxMem x => placeX x

/-- The instruction word: the row's fixed bits and the operand bits (R61, R66). -/
def encode (i : Instr) : Word := i.row.value ||| i.operandBits

/-- The two bytes of an instruction as memory holds them, high byte first (R60). -/
def bytesOfWord (op : Word) : List Byte := [op.extractLsb' 8 8, op.extractLsb' 0 8]

/-! ### The numbering of spec/opcode_table.json -/

/-- The bytes, as memory holds them, of the instruction whose `nbits` table bits are `w` (bits above are 0). -/
def tableBytes (nbits w : Nat) : List Byte := bytesOfWord (BitVec.ofNat 16 (w % 2 ^ nbits))

/-- The instruction the decoder reads from the instruction whose table bits are `w`. -/
def decodeTableWord (nbits w : Nat) : Option Instr :=
  match decodeBytes (tableBytes nbits w) with
  | .instr i _ => some i
  | .unsupportedOpcode _ => none
  | .truncated => none

end Sys2Proof
end

