-- ==== Sys2Proof/Machine/Params.lean ====
section
/-! DEFINITION. The values the spec decides for its parameters (92_eei_decisions.md D1, D2, D3, D7, D12), and what is read
from a choice of them. They stand here and not in Config.lean so that an audit can correct one. -/

namespace Sys2Proof.Config

/-- The number of framebuffer rows. -/
def DispH.rows : DispH → Nat
  | .rows32 => 32
  | .rows64 => 64

/-- The bytes of the table of R27, digit by digit. -/
def fontBytes : List Byte :=
  [0xF0, 0x90, 0x90, 0x90, 0xF0] ++ [0x20, 0x60, 0x20, 0x20, 0x70] ++
  [0xF0, 0x10, 0xF0, 0x80, 0xF0] ++ [0xF0, 0x10, 0xF0, 0x10, 0xF0] ++
  [0x90, 0x90, 0xF0, 0x10, 0x10] ++ [0xF0, 0x80, 0xF0, 0x10, 0xF0] ++
  [0xF0, 0x80, 0xF0, 0x90, 0xF0] ++ [0xF0, 0x10, 0x20, 0x40, 0x40] ++
  [0xF0, 0x90, 0xF0, 0x90, 0xF0] ++ [0xF0, 0x90, 0xF0, 0x10, 0xF0] ++
  [0xF0, 0x90, 0xF0, 0x90, 0x90] ++ [0xE0, 0x90, 0xE0, 0x90, 0xE0] ++
  [0xF0, 0x80, 0x80, 0x80, 0xF0] ++ [0xE0, 0x90, 0x90, 0x90, 0xE0] ++
  [0xF0, 0x80, 0xF0, 0x80, 0xF0] ++ [0xF0, 0x80, 0xF0, 0x80, 0x80]

/-- The default of FONT (R27, D3). -/
def font : Vector Byte 80 := ⟨fontBytes.toArray, rfl⟩

/-- The decided values, the defaults of the parameters: DISP_H = 32, GLYPH_BASE = 0x050, FONT, SHIFT_SRC = Vx,
OOR_POLICY = fault. -/
def defaults : Params where
  dispH := .rows32
  glyphBase := 0x050
  font := font
  shiftSrc := .vx
  oorPolicy := .fault

/-- Byte `j` of FONT. -/
def Params.fontByte (p : Params) (j : Nat) : Byte := p.font.toList.getD j 0

end Sys2Proof.Config
end

