-- ==== Sys2Proof/Machine/Grid.lean ====
section
/-! DEFINITION. The pixel grid and the sprite unit (spec 10_state.md R21, R22; 44_display.md), for any size: the
machine uses DISP_H rows of DISP_W columns. -/

namespace Sys2Proof.Machine

open Sys2Proof

/-- `h` rows of `w` pixels; true is on. Row 0 is the top, column 0 the left (R22). -/
abbrev Grid (w h : Nat) := Vector (Vector Bool w) h

/-- Every pixel off. -/
def Grid.clear (w h : Nat) : Grid w h := Vector.replicate h (Vector.replicate w false)

/-- `FB[r][c]`; off outside the grid, where no pixel is. -/
def Grid.pixel {w h : Nat} (g : Grid w h) (r c : Nat) : Bool :=
  match g[r]? with
  | some row => (row[c]?).getD false
  | none => false

/-- `FB[r][c] <- b` -/
def Grid.setPixel {w h : Nat} (g : Grid w h) (r c : Nat) (b : Bool) : Grid w h :=
  match g[r]? with
  | some row => g.setIfInBounds r (row.setIfInBounds c b)
  | none => g

/-- A grid being drawn on, and `hit`: whether a pixel went from on to off. -/
abbrev Drawn (w h : Nat) := Grid w h × Bool

/-- Pixel `j` of a sprite row (R132: `j = 0` is the leftmost, bit 7): a 1 bit inverts the pixel at column
`(x0 + j) mod w`, row `y mod h`, and hits if it was on (R131, R133, R134). -/
def Grid.drawBit {w h : Nat} (x0 y : Nat) (b : Byte) (d : Drawn w h) (j : Nat) : Drawn w h :=
  if b.getLsbD (7 - j) then
    let on := d.1.pixel (y % h) ((x0 + j) % w)
    (d.1.setPixel (y % h) ((x0 + j) % w) (!on), d.2 || on)
  else d

/-- One sprite row, left to right. -/
def Grid.drawRow {w h : Nat} (x0 y : Nat) (b : Byte) (d : Drawn w h) : Drawn w h :=
  [0, 1, 2, 3, 4, 5, 6, 7].foldl (Grid.drawBit x0 y b) d

/-- The sprite rows from row `y` on, top to bottom. -/
def Grid.drawRows {w h : Nat} (x0 y : Nat) : List Byte → Drawn w h → Drawn w h
  | [], d => d
  | b :: bs, d => Grid.drawRows x0 (y + 1) bs (Grid.drawRow x0 y b d)

/-- The XOR-blit of R131. -/
def Grid.blit {w h : Nat} (g : Grid w h) (x0 y0 : Nat) (rows : List Byte) : Drawn w h :=
  Grid.drawRows x0 y0 rows (g, false)

end Sys2Proof.Machine
end

