-- ==== Sys2Proof/Machine/Memory.lean ====
section
/-! DEFINITION. The 4096 bytes of memory (spec 20_memory.md) as plain data: the bytes that differ from what memory
holds after Reset, by rising address (log entry 7). -/

namespace Sys2Proof.Machine

open Sys2Proof

/-- What a byte holds after Reset: the font at GLYPH_BASE, 0x00 elsewhere (R25, R31). It is what an unlisted
address reads as. -/
def resetByte (p : Config.Params) (a : Nat) : Byte :=
  if p.glyphBase.val ≤ a then p.fontByte (a - p.glyphBase.val) else 0

/-- The listed bytes: (address, byte) pairs. -/
abbrev Memory := List Host.Cell

/-- The byte at an address. -/
def Memory.read (p : Config.Params) : Memory → Nat → Byte
  | [], a => resetByte p a
  | (b, v) :: m, a => if b = a then v else Memory.read p m a

/-- The memory with the entries for one address taken out. -/
def Memory.erase (m : Memory) (a : Nat) : Memory := m.filter fun c => c.1 ≠ a

/-- The memory with an entry put before the first higher address. -/
def Memory.insert (a : Nat) (v : Byte) : Memory → Memory
  | [] => [(a, v)]
  | (b, u) :: m => if a < b then (a, v) :: (b, u) :: m else (b, u) :: Memory.insert a v m

/-- `MEM[a] <- v` (R43), keeping the canonical form; there is no byte above 0xFFF to write (R45, log entry 8). -/
def Memory.write (p : Config.Params) (m : Memory) (a : Nat) (v : Byte) : Memory :=
  if a < Config.memSize then
    if v = resetByte p a then m.erase a else Memory.insert a v (m.erase a)
  else m

/-- Bytes written at ascending addresses from `a` (R126). -/
def Memory.writeList (p : Config.Params) (m : Memory) (a : Nat) : List Byte → Memory
  | [] => m
  | v :: vs => Memory.writeList p (m.write p a v) (a + 1) vs

/-- The bytes at `a`, `a + 1`, ... (`len` of them, R126). -/
def Memory.readList (p : Config.Params) (m : Memory) (a len : Nat) : List Byte :=
  (List.range len).map fun k => m.read p (a + k)

/-- Addresses from `lo` on, strictly rising, inside memory, no entry equal to what an unlisted address reads as. -/
def Memory.wfFrom (p : Config.Params) (lo : Nat) : Memory → Bool
  | [] => true
  | (a, v) :: m => lo ≤ a && a < Config.memSize && v != resetByte p a && Memory.wfFrom p (a + 1) m

/-- The canonical form: equal memories are equal lists. -/
def Memory.wf (p : Config.Params) (m : Memory) : Bool := Memory.wfFrom p 0 m

/-- `CheckRange(addr, len)` succeeds (R44): nothing is touched, or the last byte touched exists. The policy for a
reference above 0xFFF is OOR_POLICY, whose one value is to fault (R45). -/
def rangeOk (policy : Config.OorPolicy) (addr len : Nat) : Bool :=
  match policy with
  | .fault => len == 0 || addr + len - 1 < Config.memSize

end Sys2Proof.Machine
end

