-- ==== Sys2Proof/Machine/State.lean ====
section
/-! DEFINITION. All the state of the block (spec 10_state.md R10 to R31), the model's own fields for what the host
drives into it, and the state after Reset. -/

namespace Sys2Proof.Machine

open Sys2Proof

/-- `FAULT.kind` (R30). -/
inductive FaultKind
  | none
  | unsupportedOpcode
  | resourceExhausted
deriving DecidableEq, Repr

/-- `FAULT.cause` (R30, R171). -/
inductive FaultCause
  | noCause
  | illegalInstruction
  | stackOverflow
  | stackUnderflow
  | memoryOutOfRange
  | fetchOutOfRange
deriving DecidableEq, Repr

/-- The fault record `FAULT` (R30). -/
structure FaultRecord where
  kind : FaultKind
  cause : FaultCause
  opcode : Word
  pc : Word
deriving DecidableEq, Repr

/-- No fault: the value of `FAULT` after Reset (R31). -/
def FaultRecord.clear : FaultRecord := ⟨.none, .noCause, 0, 0⟩

/-- The six operations of the host (50_interfaces.md R150). -/
inductive HostOp
  /-- Reset (R151) -/
  | reset
  /-- Load of a program image (R152) -/
  | load (rom : List Byte)
  /-- Step with the random byte the host supplies (R153) -/
  | step (rnd : Byte)
  /-- Tick (R154) -/
  | tick
  /-- KeyWrite of all sixteen key flags (R155) -/
  | keyWrite (keys : Vector Bool Config.numKeys)
  /-- StateRead (R156) -/
  | stateRead
deriving DecidableEq, Repr

/-- The framebuffer of DISP_H rows (R21). -/
abbrev Framebuffer (height : Config.DispH) := Grid Config.dispW height.rows

structure State where
  /-- MODEL: the parameters of R4 the machine is built with; no operation writes them (log entry 11) -/
  cfg : Config.Params
  /-- V0 to VF (R10, R11) -/
  v : Vector Byte Config.numRegs
  /-- I (R12) -/
  i : Word
  /-- PC (R13) -/
  pc : Word
  /-- S[0] to S[15] (R16) -/
  stack : Vector Word Config.stackDepth
  /-- SP, the number of entries in use, 0 to 16 (R17) -/
  sp : Fin (Config.stackDepth + 1)
  /-- DT (R18) -/
  dt : Byte
  /-- ST (R19) -/
  st : Byte
  /-- KEYS (R20) -/
  keys : Vector Bool Config.numKeys
  /-- FB (R21, R22) -/
  fb : Framebuffer cfg.dispH
  /-- MEM (R23) -/
  mem : Memory
  /-- FAULT (R30) -/
  fault : FaultRecord
  /-- MODEL: the random byte that is the input of the Step being performed (R85, R153; log entry 2) -/
  rnd : Byte
  /-- MODEL: how many Steps have sampled an input, the index of the next free random byte (log entry 2) -/
  draws : Nat
  /-- MODEL: the operations the host has issued and the block has not yet performed, oldest first (R52, R150; log entry 1) -/
  pending : List HostOp
deriving DecidableEq, Repr

/-- Why a step stops: never. Every fault of the spec halts the engine by writing FAULT (R172), a next state; so this
type has no constructor, nothing raises it, and that is exact (log entry 4). -/
inductive Fault
deriving DecidableEq, Repr

/-- Why a step has no meaning. -/
inductive Refusal
  /-- The instruction has no meaning in the model yet. Raised by an arm of `exec` only; no arm raises it. Safe. -/
  | notModelled (mnemonic : String)
deriving DecidableEq, Repr

/-- The outcome of a step or of an instruction. -/
abbrev Result := Host.Outcome State Fault Refusal

/-- The state after Reset (R31, R200) of the machine with the given parameters. The last three fields are the model's
own (log entry 2). -/
def State.resetWith (cfg : Config.Params) : State where
  cfg := cfg
  v := Vector.replicate Config.numRegs 0
  i := 0
  pc := 0x0200
  stack := Vector.replicate Config.stackDepth 0
  sp := 0
  dt := 0
  st := 0
  keys := Vector.replicate Config.numKeys false
  fb := Grid.clear Config.dispW cfg.dispH.rows
  mem := []
  fault := FaultRecord.clear
  rnd := 0
  draws := 0
  pending := []

/-- The state after Reset, the parameters at the values the spec decides. -/
def State.reset : State := State.resetWith Config.defaults

end Sys2Proof.Machine
end

