-- ==== Sys2Proof/Machine/Ops.lean ====
section
/-! DEFINITION. The named operations over registers, memory, stack and framebuffer; taking a fault (spec
60_exceptions.md section 2); the instruction fetch. Meanings are written over these. -/

namespace Sys2Proof.Machine

open Sys2Proof

/-! ### Reading -/

/-- VF, the flag register (R11). -/
def vf : RegIdx := 15

/-- `V[x]` (R10). -/
def State.reg (s : State) (x : RegIdx) : Byte := s.v[x]

/-- `MemRead(a, 1)` for an address that CheckRange has passed (R41, R44; log entry 8). -/
def State.byte (s : State) (a : Nat) : Byte := s.mem.read s.cfg a

/-- `FB[r][c]` (R21). -/
def State.pixel (s : State) (r c : Nat) : Bool := s.fb.pixel r c

/-- `S[k]` (R16). -/
def State.stackAt (s : State) (k : Fin Config.stackDepth) : Word := s.stack[k]

/-- `KEYS[k]` (R20). -/
def State.key (s : State) (k : Fin Config.numKeys) : Bool := s.keys[k]

/-- HALTED (R157, R175): a fault has been taken since the last Reset or Load. -/
def State.halted (s : State) : Bool := s.fault.kind != .none

/-- SOUND_ON (R157, R183). -/
def State.soundOn (s : State) : Bool := s.st != 0

/-! ### Writing -/

/-- `V[x] <- b` (R10): no register is hard-wired. -/
def State.setReg (s : State) (x : RegIdx) (b : Byte) : State := { s with v := s.v.set x b }

/-- All V registers at once. -/
def State.setRegs (s : State) (v : Vector Byte Config.numRegs) : State := { s with v := v }

/-- `I <- w` (R12). -/
def State.setI (s : State) (w : Word) : State := { s with i := w }

/-- `PC <- w` (R13). -/
def State.setPc (s : State) (w : Word) : State := { s with pc := w }

/-- `DT <- b` (R18). -/
def State.setDt (s : State) (b : Byte) : State := { s with dt := b }

/-- `ST <- b` (R19). -/
def State.setSt (s : State) (b : Byte) : State := { s with st := b }

/-- The keypad latch, all sixteen flags (R20). -/
def State.setKeys (s : State) (keys : Vector Bool Config.numKeys) : State := { s with keys := keys }

/-- The call stack and SP (R16, R17). -/
def State.setStack (s : State) (stack : Vector Word Config.stackDepth) (sp : Fin (Config.stackDepth + 1)) : State :=
  { s with stack := stack, sp := sp }

/-- The framebuffer (R21). -/
def State.setFb (s : State) (fb : Framebuffer s.cfg.dispH) : State := { s with fb := fb }

/-- Memory (R23). -/
def State.setMem (s : State) (mem : Memory) : State := { s with mem := mem }

/-- `FAULT <- f` (R30). -/
def State.setFault (s : State) (f : FaultRecord) : State := { s with fault := f }

/-- The input of a Step: its random byte (R85, R153), and the count of sampled inputs (log entry 2). -/
def State.sampleInput (s : State) (rnd : Byte) : State := { s with rnd := rnd, draws := s.draws + 1 }

/-- The operations still waiting (log entry 1). -/
def State.setPending (s : State) (ops : List HostOp) : State := { s with pending := ops }

/-! ### The program counter -/

/-- `PC <- PC + 2` (R13), 16 bits wide (R15). -/
def State.advance (s : State) : State := s.setPc (s.pc + 2)

/-- A conditional skip: `PC + 4` when the condition holds, else `PC + 2` (R14). -/
def State.skipIf (s : State) (cond : Bool) : State := s.setPc (if cond then s.pc + 4 else s.pc + 2)

/-! ### Faults -/

/-- The kind of each cause (R171). -/
def FaultCause.kind : FaultCause → FaultKind
  | .noCause => .none
  | .illegalInstruction => .unsupportedOpcode
  | .stackOverflow => .resourceExhausted
  | .stackUnderflow => .resourceExhausted
  | .memoryOutOfRange => .resourceExhausted
  | .fetchOutOfRange => .resourceExhausted

/-- `FAULT.kind` as the host reads it (R30). -/
def FaultKind.code : FaultKind → BitVec 2
  | .none => 0
  | .unsupportedOpcode => 1
  | .resourceExhausted => 2

/-- `FAULT.cause` as the host reads it (R30). -/
def FaultCause.code : FaultCause → BitVec 3
  | .noCause => 0
  | .illegalInstruction => 1
  | .stackOverflow => 2
  | .stackUnderflow => 3
  | .memoryOutOfRange => 4
  | .fetchOutOfRange => 5

/-- TAKING A FAULT, `raise K(c)` (R172, R173): FAULT records the kind, the cause, the word and PC; nothing else
changes and the engine is halted. Return from a fault: there is none but the host's Reset and Load (R177,
`State.resetOp`, `State.loadOp`). -/
def raiseFault (c : FaultCause) (op : Word) (s : State) : Result := .next (s.setFault ⟨c.kind, c, op, s.pc⟩)

/-- `CheckRange(I, len)` at the head of an instruction (R44): the fault, or the instruction's next state. -/
def withRange (i : Instr) (len : Nat) (s done : State) : Result :=
  if rangeOk s.cfg.oorPolicy s.i.toNat len then .next done else raiseFault .memoryOutOfRange (encode i) s

/-! ### The call stack -/

/-- `S[SP] <- w; SP <- SP + 1`, or `none` when SP = 16 (R17). -/
def State.push (s : State) (w : Word) : Option State :=
  if h : s.sp.val < Config.stackDepth then
    some (s.setStack (s.stack.set s.sp.val w h) ⟨s.sp.val + 1, Nat.succ_lt_succ h⟩)
  else none

/-- `SP <- SP - 1` and the entry `S[SP]`, whose bits stay, or `none` when SP = 0 (R17). -/
def State.pop (s : State) : Option (Word × State) :=
  if h : 0 < s.sp.val then
    some (s.stack[s.sp.val - 1]'(by have := s.sp.isLt; omega),
      s.setStack s.stack ⟨s.sp.val - 1, by have := s.sp.isLt; omega⟩)
  else none

/-! ### Memory -/

/-- Bytes stored at `I`, `I + 1`, ... (R126). -/
def State.storeAtI (s : State) (bytes : List Byte) : State := s.setMem (s.mem.writeList s.cfg s.i.toNat bytes)

/-- `len` bytes read at `I`, `I + 1`, ... (R126). -/
def State.bytesAtI (s : State) (len : Nat) : List Byte := s.mem.readList s.cfg s.i.toNat len

/-- The fetch `MemRead(PC, 2)` (R42, R81): the big-endian word at PC, or `none` when `PC + 1 > 4095`. -/
def State.fetchWord (s : State) : Option Word :=
  if rangeOk s.cfg.oorPolicy s.pc.toNat 2 then some (wordOfBytes (s.byte s.pc.toNat) (s.byte (s.pc.toNat + 1))) else none

end Sys2Proof.Machine
end

