-- ==== Sys2Proof/Machine/Operands.lean ====
section
/-! DEFINITION. The operand forms of the instruction set (spec 30_encoding.md section 2 and the instruction rules). -/

namespace Sys2Proof.Machine

open Sys2Proof

/-- `zext_16(nnn)` (R63). -/
def extNnn (nnn : Addr12) : Word := nnn.setWidth 16

/-- `zext_16` of a byte. -/
def extByte (b : Byte) : Word := b.setWidth 16

/-- A flag as VF holds it: 0x00 or 0x01 (R11, R100). -/
def flagByte (f : Bool) : Byte := if f then 1 else 0

/-- The register SHR and SHL shift, by SHIFT_SRC (R69, D12). -/
def shiftReg (src : Config.ShiftSrc) (x y : RegIdx) : RegIdx :=
  match src with
  | .vx => x
  | .vy => y

/-- The key a V register selects: its low nibble (R140, D16). -/
def keyIndex (b : Byte) : Fin Config.numKeys := (b.extractLsb' 0 4).toFin

/-- The address of a glyph, for the whole 8-bit value, unmasked (R122). -/
def glyphAddress (base : Nat) (b : Byte) : Word := BitVec.ofNat 16 (base + 5 * b.toNat)

/-- The decimal digits of a byte: hundreds, tens, ones (R123). -/
def bcdDigits (b : Byte) : List Byte :=
  [BitVec.ofNat 8 (b.toNat / 100), BitVec.ofNat 8 (b.toNat / 10 % 10), BitVec.ofNat 8 (b.toNat % 10)]

/-- V0 to Vx, `x + 1` bytes (R124). -/
def State.regsTo (s : State) (x : RegIdx) : List Byte := s.v.toList.take (x.val + 1)

/-- The V registers with V0 to Vx loaded from the bytes at `I + k`; those above `x` unchanged (R125). -/
def State.regsLoadedTo (s : State) (x : RegIdx) : Vector Byte Config.numRegs :=
  Vector.ofFn fun k : Fin Config.numRegs => if k ≤ x then s.byte (s.i.toNat + k.val) else s.reg k

/-- The smallest-numbered key that is down (R146, D17). -/
def State.firstKey (s : State) : Option (Fin Config.numKeys) := (List.finRange Config.numKeys).find? fun k => s.key k

end Sys2Proof.Machine
end

