-- ==== Sys2Proof/Machine/Flags.lean ====
section
/-! DEFINITION. Results and flags of the ALU (spec 42_alu.md R100 to R103): each computes the exact value, narrows
it to 8 bits, and gives the flag as a Bool. -/

namespace Sys2Proof.Machine

open Sys2Proof

/-- An 8-bit result and the flag that goes to VF. -/
abbrev AluOut := Byte × Bool

/-- ADD Vx,Vy: the sum mod 256; carry: the sum exceeds 255 (R111). -/
def aluAdd (a b : Byte) : AluOut := (BitVec.ofNat 8 (a.toNat + b.toNat), decide (255 < a.toNat + b.toNat))

/-- `a - b` mod 256; the flag is NOT borrow: `a >= b` (R102, R112, R114). -/
def aluSub (a b : Byte) : AluOut := (BitVec.ofNat 8 (a.toNat + 256 - b.toNat), decide (b.toNat ≤ a.toNat))

/-- Shift right by one; the flag is the old bit 0 (R113). -/
def aluShr (a : Byte) : AluOut := (a >>> 1, a.getLsbD 0)

/-- Shift left by one; the flag is the old bit 7 (R115). -/
def aluShl (a : Byte) : AluOut := (a <<< 1, a.getLsbD 7)

/-- The order of writes (R84, R101): the result to Vx first, the flag to VF last. -/
def State.writeAlu (s : State) (x : RegIdx) (out : AluOut) : State := (s.setReg x out.1).setReg vf (flagByte out.2)

end Sys2Proof.Machine
end

