-- ==== Sys2Proof/Machine/Alu.lean ====
section
/-! DEFINITION. The 8-bit ALU and register moves (spec 42_alu.md). None can fault. -/

namespace Sys2Proof.Machine

open Sys2Proof

/-- LD Vx,kk (R105). -/
def execLdImm (x : RegIdx) (kk : Byte) (s : State) : Result := .next (s.setReg x kk).advance

/-- ADD Vx,kk (R106): VF is not written as a flag. -/
def execAddImm (x : RegIdx) (kk : Byte) (s : State) : Result := .next (s.setReg x (s.reg x + kk)).advance

/-- LD Vx,Vy (R107). -/
def execLdReg (x y : RegIdx) (s : State) : Result := .next (s.setReg x (s.reg y)).advance

/-- OR Vx,Vy (R108); VF not written (R104). -/
def execOrReg (x y : RegIdx) (s : State) : Result := .next (s.setReg x (s.reg x ||| s.reg y)).advance

/-- AND Vx,Vy (R109); VF not written (R104). -/
def execAndReg (x y : RegIdx) (s : State) : Result := .next (s.setReg x (s.reg x &&& s.reg y)).advance

/-- XOR Vx,Vy (R110); VF not written (R104). -/
def execXorReg (x y : RegIdx) (s : State) : Result := .next (s.setReg x (s.reg x ^^^ s.reg y)).advance

/-- ADD Vx,Vy (R111). -/
def execAddReg (x y : RegIdx) (s : State) : Result := .next (s.writeAlu x (aluAdd (s.reg x) (s.reg y))).advance

/-- SUB Vx,Vy (R112). -/
def execSubReg (x y : RegIdx) (s : State) : Result := .next (s.writeAlu x (aluSub (s.reg x) (s.reg y))).advance

/-- SHR (R113). -/
def execShr (x y : RegIdx) (s : State) : Result :=
  .next (s.writeAlu x (aluShr (s.reg (shiftReg s.cfg.shiftSrc x y)))).advance

/-- SUBN Vx,Vy (R114): `Vy - Vx`. -/
def execSubnReg (x y : RegIdx) (s : State) : Result := .next (s.writeAlu x (aluSub (s.reg y) (s.reg x))).advance

/-- SHL (R115). -/
def execShl (x y : RegIdx) (s : State) : Result :=
  .next (s.writeAlu x (aluShl (s.reg (shiftReg s.cfg.shiftSrc x y)))).advance

end Sys2Proof.Machine
end

