-- ==== Sys2Proof/Machine/Control.lean ====
section
/-! DEFINITION. Control transfer (spec 41_control_flow.md). -/

namespace Sys2Proof.Machine

open Sys2Proof

/-- RET (R90): `PC <- popped + 2`; StackUnderflow when SP = 0. -/
def execRet (s : State) : Result :=
  match s.pop with
  | some (w, t) => .next (t.setPc (w + 2))
  | none => raiseFault .stackUnderflow (encode .ret) s

/-- JP nnn (R91). -/
def execJp (nnn : Addr12) (s : State) : Result := .next (s.setPc (extNnn nnn))

/-- CALL nnn (R92): the address of the CALL itself is pushed; StackOverflow when SP = 16. -/
def execCall (nnn : Addr12) (s : State) : Result :=
  match s.push s.pc with
  | some t => .next (t.setPc (extNnn nnn))
  | none => raiseFault .stackOverflow (encode (.call nnn)) s

/-- JP V0,nnn (R93). -/
def execJpV0 (nnn : Addr12) (s : State) : Result := .next (s.setPc (extNnn nnn + extByte (s.reg 0)))

/-- SE Vx,kk (R94). -/
def execSeImm (x : RegIdx) (kk : Byte) (s : State) : Result := .next (s.skipIf (s.reg x == kk))

/-- SNE Vx,kk (R95). -/
def execSneImm (x : RegIdx) (kk : Byte) (s : State) : Result := .next (s.skipIf (s.reg x != kk))

/-- SE Vx,Vy (R96). -/
def execSeReg (x y : RegIdx) (s : State) : Result := .next (s.skipIf (s.reg x == s.reg y))

/-- SNE Vx,Vy (R97). -/
def execSneReg (x y : RegIdx) (s : State) : Result := .next (s.skipIf (s.reg x != s.reg y))

end Sys2Proof.Machine
end

