-- ==== Sys2Proof/Machine/Devices.lean ====
section
/-! DEFINITION. Timer, keypad and random instructions (spec 45_timer_key_random.md). None can fault. -/

namespace Sys2Proof.Machine

open Sys2Proof

/-- LD Vx,DT (R141). -/
def execLdVxDt (x : RegIdx) (s : State) : Result := .next (s.setReg x s.dt).advance

/-- LD DT,Vx (R142). -/
def execLdDtVx (x : RegIdx) (s : State) : Result := .next (s.setDt (s.reg x)).advance

/-- LD ST,Vx (R143). -/
def execLdStVx (x : RegIdx) (s : State) : Result := .next (s.setSt (s.reg x)).advance

/-- SKP Vx (R144). -/
def execSkp (x : RegIdx) (s : State) : Result := .next (s.skipIf (s.key (keyIndex (s.reg x))))

/-- SKNP Vx (R145). -/
def execSknp (x : RegIdx) (s : State) : Result := .next (s.skipIf (!s.key (keyIndex (s.reg x))))

/-- LD Vx,K (R146): with no key down nothing changes, PC included; else the smallest-numbered key down. -/
def execLdVxK (x : RegIdx) (s : State) : Result :=
  match s.firstKey with
  | some k => .next (s.setReg x (BitVec.ofNat 8 k.val)).advance
  | none => .next s

/-- RND Vx,kk (R147): the random byte that is this Step's input, under the mask (log entry 2). -/
def execRnd (x : RegIdx) (kk : Byte) (s : State) : Result := .next (s.setReg x (s.rnd &&& kk)).advance

end Sys2Proof.Machine
end

