-- ==== Sys2Proof/Machine/Display.lean ====
section
/-! DEFINITION. The display instructions (spec 44_display.md). -/

namespace Sys2Proof.Machine

open Sys2Proof

/-- CLS (R130). -/
def execCls (s : State) : Result := .next (s.setFb (Grid.clear Config.dispW s.cfg.dispH.rows)).advance

/-- DRW Vx,Vy,n (R131): the `n` bytes at I are XORed in at column Vx, row Vy; VF is written last, always;
MemoryOutOfRange when `n > 0` and `I + n - 1 > 4095`. -/
def execDrw (x y : RegIdx) (n : Nibble) (s : State) : Result :=
  let drawn := s.fb.blit (s.reg x).toNat (s.reg y).toNat (s.bytesAtI n.toNat)
  withRange (.drw x y n) n.toNat s ((s.setFb drawn.1).setReg vf (flagByte drawn.2)).advance

end Sys2Proof.Machine
end

