-- ==== Sys2Proof/Machine/Index.lean ====
section
/-! DEFINITION. The index register and memory instructions (spec 43_index_memory.md). -/

namespace Sys2Proof.Machine

open Sys2Proof

/-- LD I,nnn (R120). -/
def execLdI (nnn : Addr12) (s : State) : Result := .next (s.setI (extNnn nnn)).advance

/-- ADD I,Vx (R121): wraps at 65536; VF is not written. -/
def execAddI (x : RegIdx) (s : State) : Result := .next (s.setI (s.i + extByte (s.reg x))).advance

/-- LD F,Vx (R122). -/
def execLdF (x : RegIdx) (s : State) : Result := .next (s.setI (glyphAddress s.cfg.glyphBase.val (s.reg x))).advance

/-- LD B,Vx (R123): three digit bytes at I; MemoryOutOfRange when `I + 2 > 4095`. -/
def execLdB (x : RegIdx) (s : State) : Result :=
  withRange (.ldB x) 3 s (s.storeAtI (bcdDigits (s.reg x))).advance

/-- LD [I],Vx (R124): V0 to Vx at I; I unchanged; MemoryOutOfRange when `I + x > 4095`. -/
def execLdMemVx (x : RegIdx) (s : State) : Result :=
  withRange (.ldMemVx x) (x.val + 1) s (s.storeAtI (s.regsTo x)).advance

/-- LD Vx,[I] (R125): V0 to Vx from I; I unchanged; MemoryOutOfRange when `I + x > 4095`. -/
def execLdVxMem (x : RegIdx) (s : State) : Result :=
  withRange (.ldVxMem x) (x.val + 1) s (s.setRegs (s.regsLoadedTo x)).advance

end Sys2Proof.Machine
end

