-- ==== Sys2Proof/Machine/HostOps.lean ====
section
/-! DEFINITION. The six atomic operations of the host (spec 50_interfaces.md, 60_exceptions.md R182,
70_reset_and_hazards.md) and what they return. -/

namespace Sys2Proof.Machine

open Sys2Proof

/-! ### Reset and Load -/

/-- Reset (R200): every piece of the spec's state to its reset value, the halted state left (R177). The parameters are
the machine's; what the host drives in (the random inputs, the operations still to come) is not the block's state
and stays (log entry 3). -/
def State.resetOp (s : State) : State :=
  { State.resetWith s.cfg with rnd := s.rnd, draws := s.draws, pending := s.pending }

/-- Load (R201): Reset, then at most ROM_MAX bytes of the image at PROG_BASE; the rest is dropped in silence. -/
def State.loadOp (rom : List Byte) (s : State) : State :=
  let t := s.resetOp
  t.setMem (t.mem.writeList t.cfg Config.progBase (rom.take Config.romMax))

/-! ### Tick and KeyWrite -/

/-- One decrement, saturating at 0 (R182). -/
def tickByte (b : Byte) : Byte := if b ≠ 0 then b - 1 else b

/-- Tick (R182): both timers, halted or not (R176). -/
def State.tick (s : State) : State := (s.setDt (tickByte s.dt)).setSt (tickByte s.st)

/-! ### Step -/

/-- Fetch, decode, execute (R87), for an engine that is not halted. -/
def cycle (s : State) : Result :=
  match s.fetchWord with
  | none => raiseFault .fetchOutOfRange 0 s
  | some op =>
    match decode op with
    | none => raiseFault .illegalInstruction op s
    | some i => exec i s

/-- Step(rnd) (R87). A halted engine does nothing (R175; log entry 4). -/
def stepOp (rnd : Byte) (s : State) : Result :=
  if s.halted then .next s else cycle (s.sampleInput rnd)

/-- What a Step returns to the host (R80, R87). -/
inductive StepReturn
  | ok
  | error (f : FaultRecord)
deriving DecidableEq, Repr

/-- The value the Step that led to this state returned: `Ok`, or `Error(FAULT)` once FAULT holds a fault, the same one
at every later Step (R172, R175; log entry 4). -/
def State.stepReturn (s : State) : StepReturn := if s.halted then .error s.fault else .ok

/-! ### StateRead -/

/-- The memory window of `len` bytes from `a` (R156), cut at 0xFFF (log entry 13). -/
def State.window (s : State) (a len : Nat) : List Byte := s.mem.readList s.cfg a (min len (Config.memSize - a))

/-- What StateRead shows (R156, D31; R180, R184: the host may read everything, the keypad latch included) of a machine
with `rows` framebuffer rows. -/
structure Snapshot (rows : Nat) where
  regs : Vector Byte Config.numRegs
  pc : Word
  i : Word
  sp : Fin (Config.stackDepth + 1)
  dt : Byte
  st : Byte
  window : List Byte
  keys : Vector Bool Config.numKeys
  fb : Grid Config.dispW rows
  stack : Vector Word Config.stackDepth
  fault : FaultRecord
  soundOn : Bool
deriving DecidableEq, Repr

/-- StateRead with a memory window of `len` bytes from `a` (R156): it shows the state and changes nothing. -/
def State.snapshot (s : State) (a len : Nat) : Snapshot s.cfg.dispH.rows where
  regs := s.v
  pc := s.pc
  i := s.i
  sp := s.sp
  dt := s.dt
  st := s.st
  window := s.window a len
  keys := s.keys
  fb := s.fb
  stack := s.stack
  fault := s.fault
  soundOn := s.soundOn

/-! ### All six -/

/-- One operation of the host, as one atomic transaction (R150). -/
def perform (op : HostOp) (s : State) : Result :=
  match op with
  | .reset => .next s.resetOp
  | .load rom => .next (s.loadOp rom)
  | .step rnd => stepOp rnd s
  | .tick => .next s.tick
  | .keyWrite keys => .next (s.setKeys keys)
  | .stateRead => .next s

/-- The next transaction of the block: the oldest operation the host has issued; when none is waiting, a Step whose
random byte is free (R150, R153; log entries 1 and 2). -/
def transact (s : State) : Result :=
  match s.pending with
  | op :: rest => perform op (s.setPending rest)
  | [] => stepOp (Config.rndByte s.draws) s

/-- The state in which the very next transaction fetches and runs the given bytes as its instruction: they stand where
the fetch reads, PC is where a fetch can read, the engine is not halted, and no other operation is waiting. -/
def State.placeForFetch (s : State) (bytes : List Byte) : State :=
  let pc : Word := if rangeOk s.cfg.oorPolicy s.pc.toNat 2 then s.pc else BitVec.ofNat 16 Config.progBase
  { s with pc := pc, mem := s.mem.writeList s.cfg pc.toNat bytes, fault := FaultRecord.clear, pending := [] }

end Sys2Proof.Machine
end

