-- ==== Sys2Proof/Machine/Step.lean ====
section
/-! DEFINITION. One step of the block, and where the host's check places an instruction for it. -/

namespace Sys2Proof.Machine

open Sys2Proof

/-- One atomic transaction of the block (spec 50_interfaces.md R150): the host's oldest waiting operation, or a Step. -/
def step (s : State) : Host.Outcome State Fault Refusal := transact s

/-- `s` with the instruction whose table bits are `w` stored where `step` fetches its next instruction (log entry 10). -/
def State.withFetchWord (s : State) (nbits w : Nat) : State := s.placeForFetch (tableBytes nbits w)

end Sys2Proof.Machine
end

