-- ==== Sys2Proof/Safety.lean ====
section
/-! DEFINITION. What claims are stated in: the parts of the state and what it means that they are unchanged, the words of
the formats as numbers, the resting state of spec 50_interfaces.md R160, and the invariant that every transaction keeps. -/

namespace Sys2Proof.Machine

open Sys2Proof

/-! ### Parts of the state -/

/-- The pieces of the state a statement may say are unchanged; PC is always spoken of by itself. `params` are the
parameters of R4, which nothing writes. -/
inductive Part
  | params
  | regs
  | index
  | stack
  | delay
  | sound
  | keys
  | display
  | memory
  | fault
  /-- the model's fields for what the host drives in -/
  | inputs
deriving DecidableEq, Repr

/-- A part reads the same in both states. -/
def Part.same (s t : State) : Part → Prop
  | .params => t.cfg = s.cfg
  | .regs => ∀ r, t.reg r = s.reg r
  | .index => t.i = s.i
  | .stack => t.sp = s.sp ∧ ∀ k, t.stackAt k = s.stackAt k
  | .delay => t.dt = s.dt
  | .sound => t.st = s.st
  | .keys => ∀ k, t.key k = s.key k
  | .display => ∀ r c, t.pixel r c = s.pixel r c
  | .memory => ∀ a, t.byte a = s.byte a
  | .fault => t.fault = s.fault
  | .inputs => t.rnd = s.rnd ∧ t.draws = s.draws ∧ t.pending = s.pending

/-- Every part but the named ones reads in `t` as in `s`. -/
def UnchangedBut (changed : List Part) (s t : State) : Prop := ∀ p : Part, p ∉ changed → p.same s t

/-- Every V register but those of `p` reads in `t` as in `s`. -/
def RegsUnchangedBut (p : RegIdx → Prop) (s t : State) : Prop := ∀ r, ¬p r → t.reg r = s.reg r

/-- Every byte of memory but those of `p` reads in `t` as in `s`. -/
def BytesUnchangedBut (p : Nat → Prop) (s t : State) : Prop := ∀ a, ¬p a → t.byte a = s.byte a

/-- The parts an instruction may write, from the rules of the parts: V (R10), I (R12), stack (R16), DT (R18),
ST (R19), KEYS (R20), FB (R21), MEM (R23), FAULT (R171). -/
def mayWrite : Instr → List Part
  | .cls => [.display]
  | .ret => [.stack, .fault]
  | .call _ => [.stack, .fault]
  | .jp _ | .jpV0 _ => []
  | .seImm _ _ | .sneImm _ _ | .seReg _ _ | .sneReg _ _ | .skp _ | .sknp _ => []
  | .ldImm _ _ | .addImm _ _ | .rnd _ _ | .ldVxDt _ | .ldVxK _ => [.regs]
  | .ldReg _ _ | .orReg _ _ | .andReg _ _ | .xorReg _ _ | .addReg _ _ => [.regs]
  | .subReg _ _ | .shr _ _ | .subnReg _ _ | .shl _ _ => [.regs]
  | .ldI _ | .addI _ | .ldF _ => [.index]
  | .drw _ _ _ => [.regs, .display, .fault]
  | .ldDtVx _ => [.delay]
  | .ldStVx _ => [.sound]
  | .ldB _ | .ldMemVx _ => [.memory, .fault]
  | .ldVxMem _ => [.regs, .fault]

/-- The instructions that write VF as a flag (R11). -/
def setsFlag : Instr → Bool
  | .addReg _ _ | .subReg _ _ | .subnReg _ _ | .shr _ _ | .shl _ _ | .drw _ _ _ => true
  | .cls | .ret | .jp _ | .call _ | .jpV0 _ | .seImm _ _ | .sneImm _ _ | .seReg _ _ | .sneReg _ _ => false
  | .ldImm _ _ | .addImm _ _ | .ldReg _ _ | .orReg _ _ | .andReg _ _ | .xorReg _ _ | .rnd _ _ => false
  | .ldI _ | .addI _ | .ldF _ | .ldB _ | .ldMemVx _ | .ldVxMem _ => false
  | .skp _ | .sknp _ | .ldVxDt _ | .ldVxK _ | .ldDtVx _ | .ldStVx _ => false

/-- The V registers an instruction names as its destination (R10). -/
def destRegs : Instr → List RegIdx
  | .ldImm x _ | .addImm x _ | .rnd x _ | .ldVxDt x | .ldVxK x => [x]
  | .ldReg x _ | .orReg x _ | .andReg x _ | .xorReg x _ | .addReg x _ => [x]
  | .subReg x _ | .shr x _ | .subnReg x _ | .shl x _ => [x]
  | .ldVxMem x => (List.finRange 16).filter fun k => k ≤ x
  | .cls | .ret | .jp _ | .call _ | .jpV0 _ | .seImm _ _ | .sneImm _ _ | .seReg _ _ | .sneReg _ _ => []
  | .ldI _ | .addI _ | .ldF _ | .ldB _ | .ldMemVx _ | .drw _ _ _ => []
  | .skp _ | .sknp _ | .ldDtVx _ | .ldStVx _ => []

/-! ### Words of the formats (R61, R62) -/

/-- `g[4] nnn[12]` -/
def wordA (g : Nat) (nnn : Addr12) : Nat := g * 0x1000 + nnn.toNat

/-- `g[4] x[4] kk[8]` -/
def wordXK (g : Nat) (x : RegIdx) (kk : Byte) : Nat := g * 0x1000 + x.val * 0x100 + kk.toNat

/-- `g[4] x[4] y[4] n[4]`, `n` an operand or the fixed `sub` -/
def wordXY (g : Nat) (x y : RegIdx) (n : Nat) : Nat := g * 0x1000 + x.val * 0x100 + y.val * 0x10 + n

/-- `g[4] x[4] sub[8]` -/
def wordX (g : Nat) (x : RegIdx) (sub : Nat) : Nat := g * 0x1000 + x.val * 0x100 + sub

/-! ### Shapes of an effect -/

/-- Only PC changes, to `target`. -/
def OnlyPc (s t : State) (target : Word) : Prop := t.pc = target ∧ UnchangedBut [] s t

/-- `Vx` holds `value`, PC is two on, nothing else changes. -/
def WritesReg (s t : State) (x : RegIdx) (value : Nat) : Prop :=
  (t.reg x).toNat = value ∧ t.pc = s.pc + 2 ∧ RegsUnchangedBut (· = x) s t ∧ UnchangedBut [.regs] s t

/-- VF holds the flag; `Vx`, unless it is VF (R101), holds `value`; PC is two on; nothing else changes. -/
def WritesRegAndFlag (s t : State) (x : RegIdx) (value : Nat) (flag : Prop) : Prop :=
  (flag → t.reg 15 = 1) ∧ (¬flag → t.reg 15 = 0) ∧ (x ≠ 15 → (t.reg x).toNat = value) ∧ t.pc = s.pc + 2 ∧
    RegsUnchangedBut (fun r => r = x ∨ r = 15) s t ∧ UnchangedBut [.regs] s t

/-- The fault of kind `k` and cause `c` taken in `s` for the word `op` (R172, R173): FAULT alone changes. -/
def faulted (s : State) (k : FaultKind) (c : FaultCause) (op : Word) : State := { s with fault := ⟨k, c, op, s.pc⟩ }

/-- The word at PC, high byte first, as a number (R42). -/
def State.wordAtPc (s : State) : Nat := (s.byte s.pc.toNat).toNat * 0x100 + (s.byte (s.pc.toNat + 1)).toNat

/-- Sprite bit over a pixel (R131 to R133): some row `k < n` and column `j < 8` of the sprite at I, drawn at column
`Vx`, row `Vy`, lands on (r, c) with wraparound, and its bit is 1. The number of rows is the parameter DISP_H (R137). -/
def spriteCovers (s : State) (x y : RegIdx) (n : Nat) (r c : Nat) : Prop :=
  ∃ k < n, ∃ j < 8, ((s.reg y).toNat + k) % s.cfg.dispH.rows = r ∧ ((s.reg x).toNat + j) % 64 = c ∧
    (s.byte (s.i.toNat + k)).getLsbD (7 - j) = true

/-- R27: the 80 bytes of the table, digit by digit, as a list. -/
def tableOfR27 : List Byte :=
    [0xF0, 0x90, 0x90, 0x90, 0xF0, 0x20, 0x60, 0x20, 0x20, 0x70,
     0xF0, 0x10, 0xF0, 0x80, 0xF0, 0xF0, 0x10, 0xF0, 0x10, 0xF0,
     0x90, 0x90, 0xF0, 0x10, 0x10, 0xF0, 0x80, 0xF0, 0x10, 0xF0,
     0xF0, 0x80, 0xF0, 0x90, 0xF0, 0xF0, 0x10, 0x20, 0x40, 0x40,
     0xF0, 0x90, 0xF0, 0x90, 0xF0, 0xF0, 0x90, 0xF0, 0x10, 0xF0,
     0xF0, 0x90, 0xF0, 0x90, 0x90, 0xE0, 0x90, 0xE0, 0x90, 0xE0,
     0xF0, 0x80, 0x80, 0x80, 0xF0, 0xE0, 0x90, 0x90, 0x90, 0xE0,
     0xF0, 0x80, 0xF0, 0x80, 0xF0, 0xF0, 0x80, 0xF0, 0x80, 0x80]

/-! ### Rest and failure -/

/-- The self-jump (R160): not halted, `PC <= 0xFFE`, and the word at PC is `1nnn` with `nnn = PC`. -/
def State.selfJump (s : State) : Bool :=
  !s.halted && s.pc.toNat ≤ 0xFFE && s.wordAtPc == 0x1000 + s.pc.toNat

/-- The largest value PC takes (R15): JP V0,0xFFF with V0 = 0xFF. -/
def maxPc : Nat := 0x10FE

/-- The largest value a CALL pushes (R15, R90): PC at a fetch that succeeds. -/
def maxPushed : Nat := 0xFFE

/-- What the Step about to be performed takes from the host: its random byte and the operations that wait after it
(log entries 1 and 2). With no operation waiting the byte is the free one; with another operation than a Step the
oldest, there is none. -/
def State.stepInput (s : State) : Option (Byte × List HostOp) :=
  match s.pending with
  | [] => some (Config.rndByte s.draws, [])
  | .step r :: rest => some (r, rest)
  | .reset :: _ | .load _ :: _ | .tick :: _ | .keyWrite _ :: _ | .stateRead :: _ => none

/-- The word is one of the four memory instructions, and with this value of I its last byte is above 4095: the row
MemoryOutOfRange of R171. -/
def reachesPastMemory (i : Nat) (w : Nat) : Prop :=
  (w / 0x1000 = 0xD ∧ w % 0x10 ≠ 0 ∧ 4095 < i + w % 0x10 - 1) ∨
  (w / 0x1000 = 0xF ∧ w % 0x100 = 0x33 ∧ 4095 < i + 2) ∨
  (w / 0x1000 = 0xF ∧ (w % 0x100 = 0x55 ∨ w % 0x100 = 0x65) ∧ 4095 < i + w / 0x100 % 0x10)

/-- The fault record agrees with the state it was taken in (R30, R171, R173): with no fault it is the reset value;
else its kind is its cause's, its pc is PC, and the condition of its cause holds. -/
def State.faultCoherent (s : State) : Prop :=
  match s.fault.cause with
  | .noCause => s.fault = FaultRecord.clear
  | .illegalInstruction =>
    s.fault.kind = .unsupportedOpcode ∧ s.fault.pc = s.pc ∧ s.fetchWord = some s.fault.opcode ∧
      WellFormed.word s.fault.opcode = false
  | .stackOverflow =>
    s.fault.kind = .resourceExhausted ∧ s.fault.pc = s.pc ∧ s.fetchWord = some s.fault.opcode ∧
      s.sp.val = Config.stackDepth ∧ s.fault.opcode.toNat / 0x1000 = 2
  | .stackUnderflow =>
    s.fault.kind = .resourceExhausted ∧ s.fault.pc = s.pc ∧ s.fetchWord = some s.fault.opcode ∧
      s.sp.val = 0 ∧ s.fault.opcode = 0x00EE
  | .memoryOutOfRange =>
    s.fault.kind = .resourceExhausted ∧ s.fault.pc = s.pc ∧ s.fetchWord = some s.fault.opcode ∧
      reachesPastMemory s.i.toNat s.fault.opcode.toNat
  | .fetchOutOfRange =>
    s.fault.kind = .resourceExhausted ∧ s.fault.pc = s.pc ∧ s.fault.opcode = 0 ∧ 0xFFE < s.pc.toNat

/-- The invariant of the machine. -/
structure State.Inv (s : State) : Prop where
  /-- memory keeps its canonical form, inside 0x000 to 0xFFF -/
  mem : s.mem.wf s.cfg = true
  /-- R15 -/
  pc : s.pc.toNat ≤ maxPc
  /-- R15, R90: every stack entry is the address of a CALL, or 0 -/
  stack : ∀ k : Fin Config.stackDepth, (s.stackAt k).toNat ≤ maxPushed
  /-- R30, R171, R173 -/
  fault : s.faultCoherent

end Sys2Proof.Machine
end

