-- ==== Sys2Proof/Certificates/Slice0/Obligations.lean ====
section
/-! DEFINITION. The statements about the model, from the numbered rules of the spec. Words of instructions are written as
numbers from the formats of R61 and R62 (`wordA`, `wordXK`, `wordXY`, `wordX`). -/

open Sys2Proof Sys2Proof.Machine

/-! ## Reset -/

/-- R31, R200: the table of reset values, for the machine with any parameters (R4), and for the machine as the spec
decides them: 32 rows, the 80 bytes of R27 at 0x050. The rows KEYS and FAULT are the spec's decisions D18 and D24; the
display's height, the font's place and its bytes are D1, D2 and D3. -/
def Obligations.ResetHoldsTheSpecValues : Prop :=
  (∀ p : Config.Params,
    (∀ r, (State.resetWith p).reg r = 0) ∧ (State.resetWith p).i = 0 ∧ (State.resetWith p).pc = 0x0200 ∧
    (∀ k, (State.resetWith p).stackAt k = 0) ∧ (State.resetWith p).sp = 0 ∧
    (State.resetWith p).dt = 0 ∧ (State.resetWith p).st = 0 ∧
    (∀ (j : Nat) (h : j < 80), (State.resetWith p).byte (p.glyphBase.val + j) = p.font[j]) ∧
    (∀ a, a < p.glyphBase.val ∨ p.glyphBase.val + 80 ≤ a → (State.resetWith p).byte a = 0) ∧
    (∀ r c, (State.resetWith p).pixel r c = false) ∧ (∀ k, (State.resetWith p).key k = false) ∧
    (State.resetWith p).fault = ⟨.none, .noCause, 0, 0⟩ ∧ (State.resetWith p).soundOn = false ∧
    (State.resetWith p).halted = false ∧ (State.resetWith p).cfg = p) ∧
  (∃ p : Config.Params, State.reset = State.resetWith p ∧ p.dispH.rows = 32 ∧ p.glyphBase.val = 0x050 ∧
    p.font.toList = tableOfR27 ∧ p.shiftSrc = .vx ∧ p.oorPolicy = .fault)

/-! ## Encoding -/

/-- R66, words written out from the patterns of the opcode map, one or more of every family. -/
def Obligations.SampleWordsDecodeAsTheMapSays : Prop :=
  decode 0x00E0 = some .cls ∧ decode 0x00EE = some .ret ∧ decode 0x1ABC = some (.jp 0xABC) ∧
  decode 0x2DEF = some (.call 0xDEF) ∧ decode 0x332A = some (.seImm 3 0x2A) ∧ decode 0x9120 = some (.sneReg 1 2) ∧
  decode 0x7F01 = some (.addImm 15 0x01) ∧ decode 0x8AB4 = some (.addReg 10 11) ∧ decode 0x812E = some (.shl 1 2) ∧
  decode 0xB300 = some (.jpV0 0x300) ∧ decode 0xC10F = some (.rnd 1 0x0F) ∧ decode 0xD125 = some (.drw 1 2 5) ∧
  decode 0xE19E = some (.skp 1) ∧ decode 0xF50A = some (.ldVxK 5) ∧ decode 0xF333 = some (.ldB 3) ∧
  decode 0xFF55 = some (.ldMemVx 15) ∧ decode 0xFF65 = some (.ldVxMem 15)

/-- Decoding the word of any instruction, with any operands, gives that instruction back (R61, R64, R68). -/
def Obligations.DecodeOfEncodeIsTheInstruction : Prop := ∀ i : Instr, decode (encode i) = some i

/-- No word stands for an instruction whose own word is another: every bit of a decoded word is read (R61, R69: the y
field of SHR and SHL is decoded). -/
def Obligations.EncodeOfDecodeIsTheWord : Prop := ∀ (op : Word) (i : Instr), decode op = some i → encode i = op

/-- R70 to R72: the words that decode to nothing are exactly those of R70's list, which is written apart from the opcode
map (`WellFormed.word`). -/
def Obligations.UnsupportedWordsAreExactlyTheListed : Prop :=
  ∀ op : Word, decode op = none ↔ WellFormed.word op = false

/-- R64: no word matches two rows of the opcode map. -/
def Obligations.NoWordMatchesTwoRows : Prop :=
  ∀ (op : Word) (i j : Instr), i ∈ candidates op → j ∈ candidates op →
    i.row.matches op = true → j.row.matches op = true → i = j

/-! ## The Step -/

/-- A STEP RUNS THE DECODED INSTRUCTION (R83, R87): when the engine is not halted and the bytes at PC, high byte first,
decode to `i`, the Step is `exec i` at that state with the Step's random byte sampled: the free byte when no operation is
waiting (log entry 2), the host's byte when the oldest waiting operation is Step(r). Nothing is added to PC. -/
def Obligations.StepRunsTheDecodedInstruction : Prop :=
  ∀ (s : State) (op : Word) (i : Instr), s.halted = false → s.pc.toNat ≤ 0xFFE → op.toNat = s.wordAtPc →
    decode op = some i →
    (s.pending = [] → step s = exec i { s with rnd := Config.rndByte s.draws, draws := s.draws + 1 }) ∧
    (∀ r rest, s.pending = .step r :: rest →
      step s = exec i { s with rnd := r, draws := s.draws + 1, pending := rest })

/-- Where the host's check places a word, the very next step runs it (model's interface, log entry 10). -/
def Obligations.PlacedWordRunsNext : Prop :=
  ∀ (s : State) (w : Nat) (i : Instr), w < 0x10000 → decodeTableWord 16 w = some i →
    step (s.withFetchWord 16 w) = exec i { s.withFetchWord 16 w with rnd := Config.rndByte s.draws, draws := s.draws + 1 }

/-- R81 (decision D28): with `PC >= 0xFFF` no word can be fetched; FAULT records FetchOutOfRange, opcode 0x0000 and PC,
and of the spec's state nothing else changes. -/
def Obligations.FetchOutOfRangeFaults : Prop :=
  ∀ s : State, s.halted = false → s.stepInput ≠ none → 0xFFF ≤ s.pc.toNat →
    ∃ t, step s = .next t ∧ t.fault = ⟨.resourceExhausted, .fetchOutOfRange, 0x0000, s.pc⟩ ∧ t.pc = s.pc ∧
      UnchangedBut [.fault, .inputs] s t

/-- R70, R82: a word of no row is the fault UnsupportedOpcode, IllegalInstruction, with the word and its PC; of the spec's
state nothing else changes. Which words: R70 to R72 (decisions D5, D6). -/
def Obligations.UnsupportedOpcodeFaults : Prop :=
  ∀ (s : State) (op : Word), s.halted = false → s.stepInput ≠ none → s.pc.toNat ≤ 0xFFE → op.toNat = s.wordAtPc →
    WellFormed.word op = false →
    ∃ t, step s = .next t ∧ t.fault = ⟨.unsupportedOpcode, .illegalInstruction, op, s.pc⟩ ∧ t.pc = s.pc ∧
      UnchangedBut [.fault, .inputs] s t

/-- R172: when a Step of a running engine faults, it keeps none of the instruction's writes; FAULT holds the kind, the
cause, the fetched word (0x0000 if the fetch failed) and PC; the Step returns that Error; nothing else changes. That
the fields `rnd`, `draws` and `pending` take the Step's input is the model's (log entries 1 and 2), and so is the returned
value as a function of the next state (log entry 4). Which cause: `StepFaultsExactlyWhenTheTableSays` and the
statements about each fault. -/
def Obligations.FaultingStepWritesOnlyTheFaultRecord : Prop :=
  ∀ (s t : State) (r : Byte) (rest : List HostOp), s.halted = false → s.stepInput = some (r, rest) →
    step s = .next t → t.halted = true →
    ∃ (c : FaultCause) (op : Word), c ≠ .noCause ∧
      op.toNat = (if s.pc.toNat ≤ 0xFFE then s.wordAtPc else 0) ∧
      t = { faulted s c.kind c op with rnd := r, draws := s.draws + 1, pending := rest } ∧
      t.stepReturn = .error ⟨c.kind, c, op, s.pc⟩

/-- R171, R178: a Step of a running engine faults under exactly the conditions of the table of faults. -/
def Obligations.StepFaultsExactlyWhenTheTableSays : Prop :=
  ∀ s t : State, s.halted = false → s.stepInput ≠ none → step s = .next t →
    (t.halted = true ↔
      0xFFF ≤ s.pc.toNat ∨
      (s.pc.toNat ≤ 0xFFE ∧
        (WellFormed.word (BitVec.ofNat 16 s.wordAtPc) = false ∨
        (s.wordAtPc / 0x1000 = 0x2 ∧ s.sp.val = 16) ∨
        (s.wordAtPc = 0x00EE ∧ s.sp.val = 0) ∨
        (s.wordAtPc / 0x1000 = 0xD ∧ s.wordAtPc % 0x10 ≠ 0 ∧ 4095 < s.i.toNat + s.wordAtPc % 0x10 - 1) ∨
        (s.wordAtPc / 0x1000 = 0xF ∧ s.wordAtPc % 0x100 = 0x33 ∧ 4095 < s.i.toNat + 2) ∨
        (s.wordAtPc / 0x1000 = 0xF ∧ (s.wordAtPc % 0x100 = 0x55 ∨ s.wordAtPc % 0x100 = 0x65) ∧
          4095 < s.i.toNat + s.wordAtPc / 0x100 % 0x10))))

/-- R86: every operation, a Step on any word included, answers a next state. -/
def Obligations.EveryTransactionAnswersANextState : Prop := ∀ s : State, ∃ t, step s = .next t

/-- R175 (decision D9): a halted engine stays as it is through any number of Steps, each returning the same Error. -/
def Obligations.HaltedEngineStaysHalted : Prop :=
  ∀ (n : Nat) (s : State), s.halted = true → s.pending = [] →
    Host.Core.run core n s = .next s ∧ s.stepReturn = .error s.fault

/-- R177: only Reset and Load leave the halted state. -/
def Obligations.OnlyResetAndLoadLeaveHalted : Prop :=
  ∀ s t : State, s.halted = true → step s = .next t → t.halted = false →
    (∃ rest, s.pending = .reset :: rest) ∨ ∃ rom rest, s.pending = .load rom :: rest

/-! ## The invariant -/

/-- Memory canonical, PC at most 0x10FE, stack entries at most 0xFFE, FAULT coherent: at reset, whatever the parameters. -/
def Obligations.ResetMeetsTheInvariant : Prop := State.reset.Inv ∧ ∀ p : Config.Params, (State.resetWith p).Inv

/-- R15, R30, R90, R171, R173: every transaction, from any state that meets the invariant, keeps it. -/
def Obligations.EveryTransactionKeepsTheInvariant : Prop := ∀ s t : State, s.Inv → step s = .next t → t.Inv

/-- R4, R137: the parameters are those of the machine: no transaction, Reset and Load included, changes one (where they
stand is the model's choice, log entry 11). -/
def Obligations.NoTransactionChangesTheParameters : Prop := ∀ s t : State, step s = .next t → t.cfg = s.cfg

/-- The canonical form (log entry 7): two memories in it that read the same everywhere are the same data. -/
def Obligations.EqualMemoriesAreEqualData : Prop :=
  ∀ (p : Config.Params) (m m' : Memory), m.wf p = true → m'.wf p = true → (∀ a, m.read p a = m'.read p a) → m = m'

/-! ## Who may write what -/

/-- R10, R12, R16, R18 to R21, R23: an instruction changes only the parts its rules let it write (`mayWrite`). -/
def Obligations.OnlyNamedInstructionsWriteAPart : Prop :=
  ∀ (i : Instr) (s t : State), exec i s = .next t → UnchangedBut (mayWrite i) s t

/-- R10, R11: a V register changes only if the instruction names it as a destination, or it is VF and the instruction is
one of the six that set the flag; and after one of those, run by an engine that stays unhalted, VF is 0 or 1. -/
def Obligations.RegistersAndFlagChangeOnlyAsNamed : Prop :=
  ∀ (i : Instr) (s t : State), exec i s = .next t →
    RegsUnchangedBut (fun r => r ∈ destRegs i ∨ (r = 15 ∧ setsFlag i = true)) s t ∧
    (setsFlag i = true → s.halted = false → t.halted = false → t.reg 15 = 0 ∨ t.reg 15 = 1)

/-- R19, R30, R174, R181: no instruction reads ST or FAULT: with other values there, everything else comes out the same. -/
def Obligations.SoundTimerAndFaultRecordAreInvisible : Prop :=
  ∀ (i : Instr) (s : State) (f : FaultRecord) (b : Byte),
    ∃ t t', exec i s = .next t ∧ exec i ((s.setFault f).setSt b) = .next t' ∧ t'.pc = t.pc ∧
      UnchangedBut [.fault, .sound] t t'

/-! ## Control transfer -/

/-- R91, R93: JP nnn and JP V0,nnn. -/
def Obligations.JumpsSetPc : Prop :=
  ∀ (nnn : Addr12) (s : State),
    ((encode (.jp nnn)).toNat = wordA 0x1 nnn ∧
      ∃ t, exec (.jp nnn) s = .next t ∧ t.pc.toNat = nnn.toNat ∧ UnchangedBut [] s t) ∧
    ((encode (.jpV0 nnn)).toNat = wordA 0xB nnn ∧
      ∃ t, exec (.jpV0 nnn) s = .next t ∧ t.pc.toNat = nnn.toNat + (s.reg 0).toNat ∧ UnchangedBut [] s t)

/-- R92 (decisions D10, D11): CALL pushes its own address; with SP = 16 it faults and writes nothing but FAULT. -/
def Obligations.CallPushesItsOwnAddress : Prop :=
  ∀ (nnn : Addr12) (s : State), (encode (.call nnn)).toNat = wordA 0x2 nnn ∧
    (s.sp.val < 16 → ∃ t, exec (.call nnn) s = .next t ∧ t.pc.toNat = nnn.toNat ∧ t.sp.val = s.sp.val + 1 ∧
      (∀ k : Fin 16, t.stackAt k = if k.val = s.sp.val then s.pc else s.stackAt k) ∧ UnchangedBut [.stack] s t) ∧
    (s.sp.val = 16 →
      exec (.call nnn) s = .next (faulted s .resourceExhausted .stackOverflow (encode (.call nnn))))

/-- R90 (decisions D10, D11): RET goes to the popped address plus 2, leaving the entry; with SP = 0 it faults and writes
nothing but FAULT. -/
def Obligations.RetGoesPastTheCall : Prop :=
  ∀ s : State, (encode .ret).toNat = 0x00EE ∧
    (∀ k : Fin 16, s.sp.val = k.val + 1 → ∃ t, exec .ret s = .next t ∧
      t.pc.toNat = ((s.stackAt k).toNat + 2) % 65536 ∧ t.sp.val = k.val ∧
      (∀ j : Fin 16, t.stackAt j = s.stackAt j) ∧ UnchangedBut [.stack] s t) ∧
    (s.sp.val = 0 → exec .ret s = .next (faulted s .resourceExhausted .stackUnderflow 0x00EE))

/-- R90, R92 (source example S6): a CALL and the RET after it land just past the CALL, at the same stack depth. -/
def Obligations.CallThenRetResumesAfterTheCall : Prop :=
  ∀ (nnn : Addr12) (s : State), s.sp.val < 16 →
    ∃ t u, exec (.call nnn) s = .next t ∧ exec .ret t = .next u ∧ u.pc = s.pc + 2 ∧ u.sp = s.sp ∧
      UnchangedBut [.stack] s u

/-- R94, R95: the skips on an immediate. -/
def Obligations.ImmediateSkips : Prop :=
  ∀ (x : RegIdx) (kk : Byte) (s : State),
    ((encode (.seImm x kk)).toNat = wordXK 0x3 x kk ∧
      ∃ t, exec (.seImm x kk) s = .next t ∧ OnlyPc s t (if s.reg x = kk then s.pc + 4 else s.pc + 2)) ∧
    ((encode (.sneImm x kk)).toNat = wordXK 0x4 x kk ∧
      ∃ t, exec (.sneImm x kk) s = .next t ∧ OnlyPc s t (if s.reg x = kk then s.pc + 2 else s.pc + 4))

/-- R96, R97: the skips on two registers. -/
def Obligations.RegisterSkips : Prop :=
  ∀ (x y : RegIdx) (s : State),
    ((encode (.seReg x y)).toNat = wordXY 0x5 x y 0 ∧
      ∃ t, exec (.seReg x y) s = .next t ∧ OnlyPc s t (if s.reg x = s.reg y then s.pc + 4 else s.pc + 2)) ∧
    ((encode (.sneReg x y)).toNat = wordXY 0x9 x y 0 ∧
      ∃ t, exec (.sneReg x y) s = .next t ∧ OnlyPc s t (if s.reg x = s.reg y then s.pc + 2 else s.pc + 4))

/-! ## The ALU -/

/-- R105, R106, R107: load immediate, add immediate (mod 256, no flag), copy. -/
def Obligations.MovesAndAddImmediate : Prop :=
  ∀ (x : RegIdx) (s : State),
    (∀ kk : Byte, (encode (.ldImm x kk)).toNat = wordXK 0x6 x kk ∧
      ∃ t, exec (.ldImm x kk) s = .next t ∧ WritesReg s t x kk.toNat) ∧
    (∀ kk : Byte, (encode (.addImm x kk)).toNat = wordXK 0x7 x kk ∧
      ∃ t, exec (.addImm x kk) s = .next t ∧ WritesReg s t x (((s.reg x).toNat + kk.toNat) % 256)) ∧
    (∀ y : RegIdx, (encode (.ldReg x y)).toNat = wordXY 0x8 x y 0x0 ∧
      ∃ t, exec (.ldReg x y) s = .next t ∧ WritesReg s t x (s.reg y).toNat)

/-- R108, R109, R110: OR, AND, XOR, with VF not written unless it is the destination. -/
def Obligations.LogicOperations : Prop :=
  ∀ (x y : RegIdx) (s : State),
    ((encode (.orReg x y)).toNat = wordXY 0x8 x y 0x1 ∧
      ∃ t, exec (.orReg x y) s = .next t ∧ WritesReg s t x ((s.reg x).toNat ||| (s.reg y).toNat)) ∧
    ((encode (.andReg x y)).toNat = wordXY 0x8 x y 0x2 ∧
      ∃ t, exec (.andReg x y) s = .next t ∧ WritesReg s t x ((s.reg x).toNat &&& (s.reg y).toNat)) ∧
    ((encode (.xorReg x y)).toNat = wordXY 0x8 x y 0x3 ∧
      ∃ t, exec (.xorReg x y) s = .next t ∧ WritesReg s t x ((s.reg x).toNat ^^^ (s.reg y).toNat))

/-- R111: ADD Vx,Vy; the flag is the carry, written last. -/
def Obligations.AddSetsCarry : Prop :=
  ∀ (x y : RegIdx) (s : State), (encode (.addReg x y)).toNat = wordXY 0x8 x y 0x4 ∧
    ∃ t, exec (.addReg x y) s = .next t ∧
      WritesRegAndFlag s t x (((s.reg x).toNat + (s.reg y).toNat) % 256) (255 < (s.reg x).toNat + (s.reg y).toNat)

/-- R112, R114: SUB and SUBN; the flag is NOT borrow, written last. -/
def Obligations.SubtractionsSetNotBorrow : Prop :=
  ∀ (x y : RegIdx) (s : State),
    ((encode (.subReg x y)).toNat = wordXY 0x8 x y 0x5 ∧
      ∃ t, exec (.subReg x y) s = .next t ∧
        WritesRegAndFlag s t x (((s.reg x).toNat + 256 - (s.reg y).toNat) % 256) ((s.reg y).toNat ≤ (s.reg x).toNat)) ∧
    ((encode (.subnReg x y)).toNat = wordXY 0x8 x y 0x7 ∧
      ∃ t, exec (.subnReg x y) s = .next t ∧
        WritesRegAndFlag s t x (((s.reg y).toNat + 256 - (s.reg x).toNat) % 256) ((s.reg x).toNat ≤ (s.reg y).toNat))

/-- R113, R115: the flag is the bit shifted out, written last. With SHIFT_SRC = Vx, the decided value (D12), Vx alone is
shifted and the y field ignored; with its alternative Vy, the value shifted into Vx is Vy's. -/
def Obligations.ShiftsSetTheBitShiftedOut : Prop :=
  ∀ (x y : RegIdx) (s : State) (a : Byte), a = (if s.cfg.shiftSrc = .vx then s.reg x else s.reg y) →
    ((encode (.shr x y)).toNat = wordXY 0x8 x y 0x6 ∧
      ∃ t, exec (.shr x y) s = .next t ∧ WritesRegAndFlag s t x (a.toNat / 2) (a.toNat % 2 = 1)) ∧
    ((encode (.shl x y)).toNat = wordXY 0x8 x y 0xE ∧
      ∃ t, exec (.shl x y) s = .next t ∧ WritesRegAndFlag s t x (a.toNat * 2 % 256) (128 ≤ a.toNat))

/-! ## Index register and memory -/

/-- R120, R121: LD I,nnn, and ADD I,Vx, which wraps at 65536 and sets no flag. -/
def Obligations.IndexLoadAndAdd : Prop :=
  ∀ s : State,
    (∀ nnn : Addr12, (encode (.ldI nnn)).toNat = wordA 0xA nnn ∧
      ∃ t, exec (.ldI nnn) s = .next t ∧ t.i.toNat = nnn.toNat ∧ t.pc = s.pc + 2 ∧ UnchangedBut [.index] s t) ∧
    (∀ x : RegIdx, (encode (.addI x)).toNat = wordX 0xF x 0x1E ∧
      ∃ t, exec (.addI x) s = .next t ∧ t.i.toNat = (s.i.toNat + (s.reg x).toNat) % 65536 ∧ t.pc = s.pc + 2 ∧
        UnchangedBut [.index] s t)

/-- R122: LD F,Vx uses the whole 8-bit value; for a digit the result is where its 5 glyph bytes stand after Reset (R25).
The place and the bytes are the parameters GLYPH_BASE and FONT, by default 0x050 (D2) and the table of R27 (D3). -/
def Obligations.GlyphAddress : Prop :=
  ∀ (x : RegIdx) (s : State), (encode (.ldF x)).toNat = wordX 0xF x 0x29 ∧
    ∃ t, exec (.ldF x) s = .next t ∧ t.i.toNat = s.cfg.glyphBase.val + 5 * (s.reg x).toNat ∧ t.pc = s.pc + 2 ∧
      UnchangedBut [.index] s t ∧
      ∀ (j : Nat) (h : 5 * (s.reg x).toNat + j < 80), j < 5 →
        (State.resetWith s.cfg).byte (t.i.toNat + j) = s.cfg.font[5 * (s.reg x).toNat + j]

/-- R123 (decision D21 for the order of the digits): LD B,Vx stores three digits at I; every other byte is unchanged. -/
def Obligations.BcdDigitsAreStored : Prop :=
  ∀ (x : RegIdx) (s : State), (encode (.ldB x)).toNat = wordX 0xF x 0x33 ∧
    (s.i.toNat + 2 ≤ 4095 → ∃ t, exec (.ldB x) s = .next t ∧
      (t.byte s.i.toNat).toNat = (s.reg x).toNat / 100 ∧
      (t.byte (s.i.toNat + 1)).toNat = (s.reg x).toNat / 10 % 10 ∧
      (t.byte (s.i.toNat + 2)).toNat = (s.reg x).toNat % 10 ∧
      BytesUnchangedBut (fun a => s.i.toNat ≤ a ∧ a < s.i.toNat + 3) s t ∧ t.pc = s.pc + 2 ∧
      UnchangedBut [.memory] s t)

/-- R124 (decision D15: I unchanged): LD [I],Vx stores V0 to Vx, `x + 1` bytes, at I; every other byte is unchanged. -/
def Obligations.RegistersAreStored : Prop :=
  ∀ (x : RegIdx) (s : State), (encode (.ldMemVx x)).toNat = wordX 0xF x 0x55 ∧
    (s.i.toNat + x.val ≤ 4095 → ∃ t, exec (.ldMemVx x) s = .next t ∧
      (∀ k : RegIdx, k ≤ x → t.byte (s.i.toNat + k.val) = s.reg k) ∧
      BytesUnchangedBut (fun a => s.i.toNat ≤ a ∧ a ≤ s.i.toNat + x.val) s t ∧ t.pc = s.pc + 2 ∧
      UnchangedBut [.memory] s t)

/-- R125 (decision D15: I unchanged): LD Vx,[I] loads V0 to Vx from I; the registers above x are unchanged. -/
def Obligations.RegistersAreLoaded : Prop :=
  ∀ (x : RegIdx) (s : State), (encode (.ldVxMem x)).toNat = wordX 0xF x 0x65 ∧
    (s.i.toNat + x.val ≤ 4095 → ∃ t, exec (.ldVxMem x) s = .next t ∧
      (∀ k : RegIdx, k ≤ x → t.reg k = s.byte (s.i.toNat + k.val)) ∧
      RegsUnchangedBut (fun k => k ≤ x) s t ∧ t.pc = s.pc + 2 ∧ UnchangedBut [.regs] s t)

/-- R44, R171, R173 (decisions D7, D8): the four memory instructions fault when their last byte is above 4095, addresses
not wrapped, and then FAULT alone changes: no byte, register or pixel. -/
def Obligations.MemoryOutOfRangeFaults : Prop :=
  ∀ s : State,
    (∀ (x y : RegIdx) (n : Nibble), n.toNat ≠ 0 → 4095 < s.i.toNat + n.toNat - 1 →
      exec (.drw x y n) s = .next (faulted s .resourceExhausted .memoryOutOfRange (encode (.drw x y n)))) ∧
    (∀ x : RegIdx, 4095 < s.i.toNat + 2 →
      exec (.ldB x) s = .next (faulted s .resourceExhausted .memoryOutOfRange (encode (.ldB x)))) ∧
    (∀ x : RegIdx, 4095 < s.i.toNat + x.val →
      exec (.ldMemVx x) s = .next (faulted s .resourceExhausted .memoryOutOfRange (encode (.ldMemVx x))) ∧
      exec (.ldVxMem x) s = .next (faulted s .resourceExhausted .memoryOutOfRange (encode (.ldVxMem x))))

/-- R124, R125 (source example S9): what LD [I],Vx stored, LD Vx,[I] loads back into V0 to Vx, all `x + 1` of them, and
no more. -/
def Obligations.StoreThenLoadRestoresRegisters : Prop :=
  ∀ (x : RegIdx) (s : State) (v : Vector Byte 16), s.i.toNat + x.val ≤ 4095 →
    ∃ t u, exec (.ldMemVx x) s = .next t ∧ exec (.ldVxMem x) { t with v := v } = .next u ∧
      ∀ k : RegIdx, u.reg k = if k ≤ x then s.reg k else v[k]

/-- R55: bytes stored by LD [I],Vx are the word the next fetch at their address reads, high byte first. -/
def Obligations.StoredBytesAreFetchedNext : Prop :=
  ∀ (x k : RegIdx) (s : State), s.i.toNat + x.val ≤ 4095 → k < x →
    ∃ t, exec (.ldMemVx x) s = .next t ∧
      ∀ p : Word, p.toNat = s.i.toNat + k.val →
        ∃ op, State.fetchWord { t with pc := p } = some op ∧
          op.toNat = (s.reg k).toNat * 0x100 + (s.reg (k + 1)).toNat

/-! ## Display -/

/-- R130: CLS turns every pixel off and writes nothing else, VF included. -/
def Obligations.ClearTurnsEveryPixelOff : Prop :=
  (encode .cls).toNat = 0x00E0 ∧
  ∀ s : State, ∃ t, exec .cls s = .next t ∧ (∀ r c, t.pixel r c = false) ∧ t.pc = s.pc + 2 ∧
    UnchangedBut [.display] s t

/-- R131 to R134 (decision D20 for the bit order): DRW inverts exactly the pixels under the 1 bits of the sprite, wrapping
on both axes; VF is 1 when one of them was on and else 0; nothing else changes. The display has DISP_H rows, by default
32 (decision D1), and 64 columns. -/
def Obligations.SpriteInvertsThePixelsItCovers : Prop :=
  ∀ (x y : RegIdx) (n : Nibble) (s : State),
    (encode (.drw x y n)).toNat = wordXY 0xD x y n.toNat ∧
    (n.toNat = 0 ∨ s.i.toNat + n.toNat - 1 ≤ 4095 → ∃ t, exec (.drw x y n) s = .next t ∧
      (∀ r c, spriteCovers s x y n.toNat r c → t.pixel r c = !s.pixel r c) ∧
      (∀ r c, ¬spriteCovers s x y n.toNat r c → t.pixel r c = s.pixel r c) ∧
      ((∃ r c, spriteCovers s x y n.toNat r c ∧ s.pixel r c = true) → t.reg 15 = 1) ∧
      ((¬∃ r c, spriteCovers s x y n.toNat r c ∧ s.pixel r c = true) → t.reg 15 = 0) ∧
      RegsUnchangedBut (· = 15) s t ∧ t.pc = s.pc + 2 ∧ UnchangedBut [.regs, .display] s t)

/-- R135 (source example S4): the same sprite drawn twice at the same place restores every pixel, and the second VF is 1
exactly when the first draw turned some pixel on. Neither coordinate is VF, which the first draw overwrites (R136). -/
def Obligations.DrawingTwiceRestoresTheDisplay : Prop :=
  ∀ (x y : RegIdx) (n : Nibble) (s : State), x ≠ 15 → y ≠ 15 → n.toNat = 0 ∨ s.i.toNat + n.toNat - 1 ≤ 4095 →
    ∃ t u, exec (.drw x y n) s = .next t ∧ exec (.drw x y n) t = .next u ∧
      (∀ r c, u.pixel r c = s.pixel r c) ∧
      ((∃ r c, s.pixel r c = false ∧ t.pixel r c = true) → u.reg 15 = 1) ∧
      ((¬∃ r c, s.pixel r c = false ∧ t.pixel r c = true) → u.reg 15 = 0)

/-! ## Timers, keys, random -/

/-- R141, R142, R143: the timer transfers; SOUND_ON follows ST at once. -/
def Obligations.TimerTransfers : Prop :=
  ∀ (x : RegIdx) (s : State),
    ((encode (.ldVxDt x)).toNat = wordX 0xF x 0x07 ∧
      ∃ t, exec (.ldVxDt x) s = .next t ∧ WritesReg s t x s.dt.toNat) ∧
    ((encode (.ldDtVx x)).toNat = wordX 0xF x 0x15 ∧
      ∃ t, exec (.ldDtVx x) s = .next t ∧ t.dt = s.reg x ∧ t.pc = s.pc + 2 ∧ UnchangedBut [.delay] s t) ∧
    ((encode (.ldStVx x)).toNat = wordX 0xF x 0x18 ∧
      ∃ t, exec (.ldStVx x) s = .next t ∧ t.st = s.reg x ∧ (t.soundOn = true ↔ s.reg x ≠ 0) ∧ t.pc = s.pc + 2 ∧
        UnchangedBut [.sound] s t)

/-- R144, R145 (key selected by the low nibble, R140, decision D16): the keypad skips. -/
def Obligations.KeySkips : Prop :=
  ∀ (x : RegIdx) (s : State) (k : Fin 16), (s.reg x).toNat % 16 = k.val →
    ((encode (.skp x)).toNat = wordX 0xE x 0x9E ∧
      ∃ t, exec (.skp x) s = .next t ∧ OnlyPc s t (if s.key k = true then s.pc + 4 else s.pc + 2)) ∧
    ((encode (.sknp x)).toNat = wordX 0xE x 0xA1 ∧
      ∃ t, exec (.sknp x) s = .next t ∧ OnlyPc s t (if s.key k = true then s.pc + 2 else s.pc + 4))

/-- R146 (decision D17): LD Vx,K takes the lowest-numbered key that is down; with no key down nothing at all changes. -/
def Obligations.KeyWait : Prop :=
  ∀ (x : RegIdx) (s : State), (encode (.ldVxK x)).toNat = wordX 0xF x 0x0A ∧
    (∀ k : Fin 16, s.key k = true → (∀ j < k, s.key j = false) →
      ∃ t, exec (.ldVxK x) s = .next t ∧ WritesReg s t x k.val) ∧
    ((∀ k, s.key k = false) → exec (.ldVxK x) s = .next s)

/-- R147 (decision D22): RND stores the Step's random byte, whatever it is, under the mask; for every value of the
model's field `rnd`. -/
def Obligations.RandomByteUnderMask : Prop :=
  ∀ (x : RegIdx) (kk : Byte) (s : State), (encode (.rnd x kk)).toNat = wordXK 0xC x kk ∧
    ∃ t, exec (.rnd x kk) s = .next t ∧ WritesReg s t x (s.rnd.toNat &&& kk.toNat)

/-! ## The host's operations -/

/-- R182, R176 (decisions D26, D9): a Tick takes 1 from each timer that is not 0, halted or not, and nothing else. -/
def Obligations.TickCountsBothTimersDown : Prop :=
  ∀ (s : State) (rest : List HostOp), s.pending = .tick :: rest →
    ∃ t, step s = .next t ∧ t.dt.toNat = s.dt.toNat - 1 ∧ t.st.toNat = s.st.toNat - 1 ∧ t.pc = s.pc ∧
      UnchangedBut [.delay, .sound, .inputs] s t ∧ t.pending = rest

/-- R182 (source example S8): n Ticks take a timer from v to v - n, and to 0 from any v up to n; never below. -/
def Obligations.TicksReachZero : Prop :=
  ∀ (n : Nat) (s : State), s.pending = List.replicate n .tick →
    ∃ t, Host.Core.run core n s = .next t ∧ t.dt.toNat = s.dt.toNat - n ∧ t.st.toNat = s.st.toNat - n ∧
      t.pending = [] ∧ t.pc = s.pc

/-- R155: KeyWrite sets all sixteen key flags and nothing else. -/
def Obligations.KeyWriteSetsAllKeys : Prop :=
  ∀ (s : State) (keys : Vector Bool 16) (rest : List HostOp), s.pending = .keyWrite keys :: rest →
    ∃ t, step s = .next t ∧ (∀ k : Fin 16, t.key k = keys[k]) ∧ t.pc = s.pc ∧ UnchangedBut [.keys, .inputs] s t ∧
      t.pending = rest

/-- R200: Reset from any state leaves every part of the spec's state as after reset (the model's inputs go on, log
entry 3). -/
def Obligations.ResetRestoresEverything : Prop :=
  ∀ (s : State) (rest : List HostOp), s.pending = .reset :: rest →
    ∃ t, step s = .next t ∧ t.pc = State.reset.pc ∧ UnchangedBut [.inputs] (State.resetWith s.cfg) t ∧ t.pending = rest

/-- R201 (decision D23): Load is Reset and then at most 3584 bytes of the image at 0x200; the rest is dropped. That the
operations waiting after it stay is the model's choice (log entry 3), and so is the canonical form of memory (log
entry 7). -/
def Obligations.LoadCopiesTheImage : Prop :=
  ∀ (s : State) (rom : List Byte) (rest : List HostOp), s.pending = .load rom :: rest →
    ∃ t, step s = .next t ∧ t.pc = 0x0200 ∧
      (∀ j, j < min rom.length 3584 → t.byte (0x200 + j) = rom.getD j 0) ∧
      (∀ a, a < 0x200 ∨ 0x200 + min rom.length 3584 ≤ a → t.byte a = (State.resetWith s.cfg).byte a) ∧
      UnchangedBut [.memory, .inputs] (State.resetWith s.cfg) t ∧ t.pending = rest ∧ t.mem.wf s.cfg = true

/-- R156 (decision D31), R180, R184: StateRead changes nothing, and what it shows is the state: every register, the stack,
the keypad latch, every pixel, FAULT, SOUND_ON, and every byte of the window that exists. That a snapshot is a
function of the state, with a window cut at 0xFFF, is the model's choice (log entry 13). -/
def Obligations.StateReadShowsAndChangesNothing : Prop :=
  ∀ (s : State) (rest : List HostOp), s.pending = .stateRead :: rest →
    step s = .next { s with pending := rest } ∧
    ∀ a len : Nat, (∀ k : RegIdx, (s.snapshot a len).regs[k] = s.reg k) ∧
      (s.snapshot a len).pc = s.pc ∧ (s.snapshot a len).i = s.i ∧ (s.snapshot a len).sp = s.sp ∧
      (s.snapshot a len).dt = s.dt ∧ (s.snapshot a len).st = s.st ∧
      (∀ k : Fin 16, (s.snapshot a len).stack[k] = s.stackAt k) ∧
      (∀ k : Fin 16, (s.snapshot a len).keys[k] = s.key k) ∧
      (∀ r c, (s.snapshot a len).fb.pixel r c = s.pixel r c) ∧
      (s.snapshot a len).fault = s.fault ∧
      (s.snapshot a len).soundOn = (decide (s.st.toNat ≠ 0)) ∧
      (s.snapshot a len).window.length = min len (4096 - a) ∧
      (∀ j, j < len → a + j ≤ 4095 → (s.snapshot a len).window[j]? = some (s.byte (a + j)))

/-- R160 (decision D32): the self-jump is a fixed point of Step, and only Reset or Load leaves it. -/
def Obligations.SelfJumpIsLeftOnlyByResetOrLoad : Prop :=
  ∀ s t : State, s.selfJump = true → step s = .next t →
    (s.pending = [] → t.pc = s.pc ∧ UnchangedBut [.inputs] s t) ∧
    (t.selfJump = true ∨ (∃ rest, s.pending = .reset :: rest) ∨ ∃ rom rest, s.pending = .load rom :: rest)
end

