-- ==== Sys2Proof/Laws/Decode.lean ====
section
/-! SUPPORT. Small laws of the fields, the rows, the decoder and the encoder. -/

namespace Sys2Proof

/-! ### The operand bits lie outside the fixed bits -/

theorem placeX_and_xk (x : RegIdx) : placeX x &&& 0xF000 = 0 := by revert x; decide
theorem placeX_and_xy (x : RegIdx) : placeX x &&& 0xF00F = 0 := by revert x; decide
theorem placeX_and_x (x : RegIdx) : placeX x &&& 0xF0FF = 0 := by revert x; decide
theorem placeY_and_xk (y : RegIdx) : placeY y &&& 0xF000 = 0 := by revert y; decide
theorem placeY_and_xy (y : RegIdx) : placeY y &&& 0xF00F = 0 := by revert y; decide

/-- A value of at most 12 bits has no bit in the leading nibble. -/
theorem setWidth_and_leading {k : Nat} (hk : k ≤ 12) (v : BitVec k) : v.setWidth 16 &&& 0xF000 = 0 := by
  ext j hj
  by_cases h : j < 12
  · have : (0xF000#16).getLsbD j = false := by revert j; decide
    simp [← BitVec.getLsbD_eq_getElem, this]
  · simp [BitVec.getLsbD_of_ge v j (by omega)]

/-- Fixed bits and operand bits do not mix: masking a word gives back the row's value. -/
theorem and_mask_of_parts {v o m : Word} (hv : v &&& m = v) (ho : o &&& m = 0) : (v ||| o) &&& m = v := by
  rw [BitVec.and_comm, BitVec.and_or_distrib_left, BitVec.and_comm m v, BitVec.and_comm m o, hv, ho]; simp

theorem or_and_eq_zero {a b m : Word} (ha : a &&& m = 0) (hb : b &&& m = 0) : (a ||| b) &&& m = 0 := by
  rw [BitVec.and_comm, BitVec.and_or_distrib_left, BitVec.and_comm m a, BitVec.and_comm m b, ha, hb]; simp

/-! ### The decoder -/

/-- What decoding gives is a candidate whose row the word matches. -/
theorem decode_eq_some {op : Word} {i : Instr} (h : decode op = some i) :
    i ∈ candidates op ∧ (op &&& i.row.format.mask) = i.row.value := by
  refine ⟨List.mem_of_find?_eq_some h, ?_⟩
  simpa [OpcodeRow.matches] using List.find?_some h

/-- No decoding means that no row matches. -/
theorem decode_eq_none {op : Word} :
    decode op = none ↔ ∀ i ∈ candidates op, (op &&& i.row.format.mask) ≠ i.row.value := by
  simp [decode, List.find?_eq_none, OpcodeRow.matches]

/-- A table word of 16 bits is laid out high byte first and read by the decoder as it stands. -/
theorem wordOfBytes_extract (op : Word) : wordOfBytes (op.extractLsb' 8 8) (op.extractLsb' 0 8) = op := by
  unfold wordOfBytes
  ext j hj
  simp only [← BitVec.getLsbD_eq_getElem, BitVec.getLsbD_append, BitVec.getLsbD_extractLsb']
  by_cases h : j < 8
  · simp [h]
  · simp [h, show j - 8 < 8 by omega, show 8 + (j - 8) = j by omega]

theorem decodeBytes_bytesOfWord (op : Word) (rest : List Byte) :
    decodeBytes (bytesOfWord op ++ rest) = match decode op with
      | some i => .instr i rest
      | none => .unsupportedOpcode op := by
  cases h : decode op <;>
    simp only [bytesOfWord, List.cons_append, List.nil_append, decodeBytes, wordOfBytes_extract, h]

end Sys2Proof
end

