-- ==== Sys2Proof/Laws/Params.lean ====
section
/-! SUPPORT. Every choice of the parameters is one the spec allows, and the sizes that follow from it. -/

namespace Sys2Proof.Config

/-- DISP_H divides 256 and is at least 32 (R134, D1). -/
theorem DispH.rows_wellFormed (d : DispH) : WellFormed.dispH d.rows = true := by cases d <;> decide

/-- The font lies in the reserved low region (D2). -/
theorem Params.glyphBase_wellFormed (p : Params) : WellFormed.glyphBase p.glyphBase.val = true := by
  have := p.glyphBase.isLt
  simp only [WellFormed.glyphBase, decide_eq_true_eq, progBase]
  omega

/-- 16 glyphs of 5 bytes (R25). -/
theorem Params.font_wellFormed (p : Params) : WellFormed.font p.font.toList = true := by
  simp [WellFormed.font]

/-- A sprite is never taller than the display. -/
theorem DispH.le_rows (d : DispH) : 32 ≤ d.rows := by cases d <;> decide

/-- There is no font byte after the 80th. -/
theorem Params.fontByte_of_ge (p : Params) {j : Nat} (h : 80 ≤ j) : p.fontByte j = 0 := by
  rw [Params.fontByte, List.getD_eq_default _ _ (by simpa using h)]

theorem Params.fontByte_of_lt (p : Params) {j : Nat} (h : j < 80) : p.fontByte j = p.font[j] := by
  rw [Params.fontByte, List.getD_eq_getElem _ _ (by simpa using h)]
  rfl

end Sys2Proof.Config
end

