-- ==== Sys2Proof/Laws/Memory.lean ====
section
/-! SUPPORT. The laws of memory: a read after a write (R49), and that every memory operation keeps the canonical form. -/

namespace Sys2Proof.Machine

open Sys2Proof

variable {p : Config.Params}

/-! ### What an unlisted address reads as -/

theorem resetByte_font (j : Nat) (h : j < 80) : resetByte p (p.glyphBase.val + j) = p.font[j] := by
  rw [resetByte, if_pos (by omega), Nat.add_sub_cancel_left, Config.Params.fontByte_of_lt p h]

theorem resetByte_outside (a : Nat) (h : a < p.glyphBase.val ∨ p.glyphBase.val + 80 ≤ a) : resetByte p a = 0 := by
  rw [resetByte]
  split
  · exact Config.Params.fontByte_of_ge p (by omega)
  · rfl

/-! ### Reads -/

theorem Memory.read_erase (m : Memory) (a b : Nat) :
    (m.erase a).read p b = if b = a then resetByte p a else m.read p b := by
  induction m with
  | nil => simp only [Memory.erase, List.filter_nil, Memory.read]; split <;> simp_all
  | cons c m ih =>
    obtain ⟨d, v⟩ := c
    simp only [Memory.erase, List.filter_cons, ne_eq, decide_not] at ih ⊢
    by_cases hd : d = a <;> simp only [hd, decide_true, Bool.not_true, decide_false, Bool.not_false, Memory.read,
      if_true, if_false, Bool.false_eq_true, ih]
    · by_cases hb : b = a
      · simp [hb]
      · simp [hb, Ne.symm hb]
    · by_cases hb : d = b
      · simp [hb, hb ▸ hd]
      · simp [hb]

theorem Memory.read_insert (m : Memory) (a b : Nat) (v : Byte) (h : m.read p a = resetByte p a)
    (ha : ∀ c ∈ m, c.1 ≠ a) : (Memory.insert a v m).read p b = if b = a then v else m.read p b := by
  induction m with
  | nil => simp only [Memory.insert, Memory.read, eq_comm]
  | cons c m ih =>
    obtain ⟨d, u⟩ := c
    have hd : d ≠ a := ha (d, u) (by simp)
    have ih := ih (by simpa [Memory.read, hd] using h) fun c hc => ha c (by simp [hc])
    by_cases hlt : a < d
    · simp only [Memory.insert, hlt, if_true, Memory.read, eq_comm (a := a)]
    · simp only [Memory.insert, hlt, if_false, Memory.read, ih]
      by_cases hb : d = b
      · simp [hb, hb ▸ hd]
      · simp [hb]

theorem Memory.ne_of_mem_erase {m : Memory} {a : Nat} {c : Host.Cell} (h : c ∈ m.erase a) : c.1 ≠ a := by
  simpa using (List.mem_filter.mp h).2

/-- One write, one read (R43, R49): every other byte is unchanged. -/
theorem Memory.read_write (m : Memory) (a b : Nat) (v : Byte) :
    (m.write p a v).read p b = if b = a ∧ a < Config.memSize then v else m.read p b := by
  unfold Memory.write
  by_cases ha : a < Config.memSize
  · simp only [ha, if_true, and_true]
    split
    · next hv => rw [Memory.read_erase, hv]
    · rw [Memory.read_insert _ _ _ _ (by simp [Memory.read_erase]) fun c hc => Memory.ne_of_mem_erase hc,
        Memory.read_erase]
      split <;> rfl
  · simp [ha]

/-- A store of bytes at ascending addresses: byte `k` is read back at `a + k`, every other byte is unchanged. -/
theorem Memory.read_writeList (m : Memory) (a b : Nat) (bs : List Byte) (h : a + bs.length ≤ Config.memSize) :
    (m.writeList p a bs).read p b = if a ≤ b ∧ b < a + bs.length then bs.getD (b - a) 0 else m.read p b := by
  induction bs generalizing m a with
  | nil => simp only [Memory.writeList, List.length_nil, Nat.add_zero]; split <;> [omega; rfl]
  | cons v vs ih =>
    simp only [List.length_cons] at h ⊢
    rw [Memory.writeList, ih _ _ (by omega), Memory.read_write]
    by_cases hb : b = a
    · subst hb; simp; omega
    · by_cases hin : a + 1 ≤ b ∧ b < a + 1 + vs.length
      · rw [if_pos hin, if_pos (by omega), show b - a = (b - (a + 1)) + 1 by omega]; simp
      · rw [if_neg hin, if_neg (by simp [hb]), if_neg (by omega)]

@[simp] theorem Memory.length_readList (m : Memory) (a len : Nat) : (m.readList p a len).length = len := by
  simp [Memory.readList]

@[simp] theorem Memory.getElem_readList (m : Memory) (a len k : Nat) (h : k < (m.readList p a len).length) :
    (m.readList p a len)[k] = m.read p (a + k) := by
  simp [Memory.readList]

/-! ### The canonical form -/

theorem Memory.wfFrom_mono {m : Memory} {lo lo' : Nat} (h : lo' ≤ lo) (hm : Memory.wfFrom p lo m = true) :
    Memory.wfFrom p lo' m = true := by
  cases m with
  | nil => rfl
  | cons c m =>
    obtain ⟨a, v⟩ := c
    simp only [Memory.wfFrom, Bool.and_eq_true, decide_eq_true_eq] at hm ⊢
    exact ⟨⟨⟨h.trans hm.1.1.1, hm.1.1.2⟩, hm.1.2⟩, hm.2⟩

theorem Memory.wfFrom_erase {m : Memory} {lo : Nat} (a : Nat) (hm : Memory.wfFrom p lo m = true) :
    Memory.wfFrom p lo (m.erase a) = true := by
  induction m generalizing lo with
  | nil => rfl
  | cons c m ih =>
    obtain ⟨b, v⟩ := c
    simp only [Memory.wfFrom, Bool.and_eq_true, decide_eq_true_eq, bne_iff_ne] at hm
    have ih := ih hm.2
    simp only [Memory.erase, List.filter_cons] at ih ⊢
    split
    · simp only [Memory.wfFrom, Bool.and_eq_true, decide_eq_true_eq, bne_iff_ne]; exact ⟨hm.1, ih⟩
    · exact Memory.wfFrom_mono (by omega) ih

theorem Memory.wfFrom_insert {m : Memory} {lo a : Nat} {v : Byte} (hlo : lo ≤ a) (ha : a < Config.memSize)
    (hv : v ≠ resetByte p a) (hne : ∀ c ∈ m, c.1 ≠ a) (hm : Memory.wfFrom p lo m = true) :
    Memory.wfFrom p lo (Memory.insert a v m) = true := by
  induction m generalizing lo with
  | nil => simp [Memory.insert, Memory.wfFrom, hlo, ha, hv]
  | cons c m ih =>
    obtain ⟨b, u⟩ := c
    have hb : b ≠ a := hne (b, u) (by simp)
    simp only [Memory.wfFrom, Bool.and_eq_true, decide_eq_true_eq, bne_iff_ne] at hm
    by_cases hlt : a < b
    · simp only [Memory.insert, hlt, if_true, Memory.wfFrom, Bool.and_eq_true, decide_eq_true_eq, bne_iff_ne]
      exact ⟨⟨⟨hlo, ha⟩, hv⟩, ⟨⟨by omega, hm.1.1.2⟩, hm.1.2⟩, hm.2⟩
    · simp only [Memory.insert, hlt, if_false, Memory.wfFrom, Bool.and_eq_true, decide_eq_true_eq, bne_iff_ne]
      exact ⟨hm.1, ih (by omega) (fun c hc => hne c (by simp [hc])) hm.2⟩

/-- A write keeps the canonical form. -/
theorem Memory.wf_write {m : Memory} (a : Nat) (v : Byte) (hm : m.wf p = true) : (m.write p a v).wf p = true := by
  unfold Memory.write
  split
  · next ha =>
    split
    · exact Memory.wfFrom_erase a hm
    · next hv =>
      exact Memory.wfFrom_insert (Nat.zero_le a) ha hv (fun c hc => Memory.ne_of_mem_erase hc)
        (Memory.wfFrom_erase a hm)
  · exact hm

/-- A store of bytes keeps the canonical form. -/
theorem Memory.wf_writeList {m : Memory} (a : Nat) (bs : List Byte) (hm : m.wf p = true) :
    (m.writeList p a bs).wf p = true := by
  induction bs generalizing m a with
  | nil => exact hm
  | cons v vs ih => exact ih (a + 1) (Memory.wf_write a v hm)

end Sys2Proof.Machine
end

