-- ==== Sys2Proof/Laws/State.lean ====
section
/-! SUPPORT. What each update of State leaves in each field, and what each read sees after each update: the small
lemmas of the record, true by rfl, so that no later proof unfolds an update. -/

namespace Sys2Proof.Machine

open Sys2Proof

variable (s : State)

/-! ### setReg -/

@[simp] theorem State.setReg_cfg (x : RegIdx) (b : Byte) : (s.setReg x b).cfg = s.cfg := rfl
@[simp] theorem State.setReg_v (x : RegIdx) (b : Byte) : (s.setReg x b).v = s.v.set x b := rfl
@[simp] theorem State.setReg_i (x : RegIdx) (b : Byte) : (s.setReg x b).i = s.i := rfl
@[simp] theorem State.setReg_pc (x : RegIdx) (b : Byte) : (s.setReg x b).pc = s.pc := rfl
@[simp] theorem State.setReg_stack (x : RegIdx) (b : Byte) : (s.setReg x b).stack = s.stack := rfl
@[simp] theorem State.setReg_sp (x : RegIdx) (b : Byte) : (s.setReg x b).sp = s.sp := rfl
@[simp] theorem State.setReg_dt (x : RegIdx) (b : Byte) : (s.setReg x b).dt = s.dt := rfl
@[simp] theorem State.setReg_st (x : RegIdx) (b : Byte) : (s.setReg x b).st = s.st := rfl
@[simp] theorem State.setReg_keys (x : RegIdx) (b : Byte) : (s.setReg x b).keys = s.keys := rfl
@[simp] theorem State.setReg_fb (x : RegIdx) (b : Byte) : (s.setReg x b).fb = s.fb := rfl
@[simp] theorem State.setReg_mem (x : RegIdx) (b : Byte) : (s.setReg x b).mem = s.mem := rfl
@[simp] theorem State.setReg_fault (x : RegIdx) (b : Byte) : (s.setReg x b).fault = s.fault := rfl
@[simp] theorem State.setReg_rnd (x : RegIdx) (b : Byte) : (s.setReg x b).rnd = s.rnd := rfl
@[simp] theorem State.setReg_draws (x : RegIdx) (b : Byte) : (s.setReg x b).draws = s.draws := rfl
@[simp] theorem State.setReg_pending (x : RegIdx) (b : Byte) : (s.setReg x b).pending = s.pending := rfl
@[simp] theorem State.setReg_byte (x : RegIdx) (b : Byte) (a : Nat) : (s.setReg x b).byte a = s.byte a := rfl
@[simp] theorem State.setReg_pixel (x : RegIdx) (b : Byte) (r c : Nat) : (s.setReg x b).pixel r c = s.pixel r c := rfl
@[simp] theorem State.setReg_stackAt (x : RegIdx) (b : Byte) (k : Fin Config.stackDepth) : (s.setReg x b).stackAt k = s.stackAt k := rfl
@[simp] theorem State.setReg_key (x : RegIdx) (b : Byte) (k : Fin Config.numKeys) : (s.setReg x b).key k = s.key k := rfl
@[simp] theorem State.setReg_halted (x : RegIdx) (b : Byte) : (s.setReg x b).halted = s.halted := rfl
@[simp] theorem State.setReg_soundOn (x : RegIdx) (b : Byte) : (s.setReg x b).soundOn = s.soundOn := rfl

/-! ### setRegs -/

@[simp] theorem State.setRegs_cfg (v : Vector Byte Config.numRegs) : (s.setRegs v).cfg = s.cfg := rfl
@[simp] theorem State.setRegs_v (v : Vector Byte Config.numRegs) : (s.setRegs v).v = v := rfl
@[simp] theorem State.setRegs_i (v : Vector Byte Config.numRegs) : (s.setRegs v).i = s.i := rfl
@[simp] theorem State.setRegs_pc (v : Vector Byte Config.numRegs) : (s.setRegs v).pc = s.pc := rfl
@[simp] theorem State.setRegs_stack (v : Vector Byte Config.numRegs) : (s.setRegs v).stack = s.stack := rfl
@[simp] theorem State.setRegs_sp (v : Vector Byte Config.numRegs) : (s.setRegs v).sp = s.sp := rfl
@[simp] theorem State.setRegs_dt (v : Vector Byte Config.numRegs) : (s.setRegs v).dt = s.dt := rfl
@[simp] theorem State.setRegs_st (v : Vector Byte Config.numRegs) : (s.setRegs v).st = s.st := rfl
@[simp] theorem State.setRegs_keys (v : Vector Byte Config.numRegs) : (s.setRegs v).keys = s.keys := rfl
@[simp] theorem State.setRegs_fb (v : Vector Byte Config.numRegs) : (s.setRegs v).fb = s.fb := rfl
@[simp] theorem State.setRegs_mem (v : Vector Byte Config.numRegs) : (s.setRegs v).mem = s.mem := rfl
@[simp] theorem State.setRegs_fault (v : Vector Byte Config.numRegs) : (s.setRegs v).fault = s.fault := rfl
@[simp] theorem State.setRegs_rnd (v : Vector Byte Config.numRegs) : (s.setRegs v).rnd = s.rnd := rfl
@[simp] theorem State.setRegs_draws (v : Vector Byte Config.numRegs) : (s.setRegs v).draws = s.draws := rfl
@[simp] theorem State.setRegs_pending (v : Vector Byte Config.numRegs) : (s.setRegs v).pending = s.pending := rfl
@[simp] theorem State.setRegs_byte (v : Vector Byte Config.numRegs) (a : Nat) : (s.setRegs v).byte a = s.byte a := rfl
@[simp] theorem State.setRegs_pixel (v : Vector Byte Config.numRegs) (r c : Nat) : (s.setRegs v).pixel r c = s.pixel r c := rfl
@[simp] theorem State.setRegs_stackAt (v : Vector Byte Config.numRegs) (k : Fin Config.stackDepth) : (s.setRegs v).stackAt k = s.stackAt k := rfl
@[simp] theorem State.setRegs_key (v : Vector Byte Config.numRegs) (k : Fin Config.numKeys) : (s.setRegs v).key k = s.key k := rfl
@[simp] theorem State.setRegs_halted (v : Vector Byte Config.numRegs) : (s.setRegs v).halted = s.halted := rfl
@[simp] theorem State.setRegs_soundOn (v : Vector Byte Config.numRegs) : (s.setRegs v).soundOn = s.soundOn := rfl

/-! ### setI -/

@[simp] theorem State.setI_cfg (w : Word) : (s.setI w).cfg = s.cfg := rfl
@[simp] theorem State.setI_v (w : Word) : (s.setI w).v = s.v := rfl
@[simp] theorem State.setI_i (w : Word) : (s.setI w).i = w := rfl
@[simp] theorem State.setI_pc (w : Word) : (s.setI w).pc = s.pc := rfl
@[simp] theorem State.setI_stack (w : Word) : (s.setI w).stack = s.stack := rfl
@[simp] theorem State.setI_sp (w : Word) : (s.setI w).sp = s.sp := rfl
@[simp] theorem State.setI_dt (w : Word) : (s.setI w).dt = s.dt := rfl
@[simp] theorem State.setI_st (w : Word) : (s.setI w).st = s.st := rfl
@[simp] theorem State.setI_keys (w : Word) : (s.setI w).keys = s.keys := rfl
@[simp] theorem State.setI_fb (w : Word) : (s.setI w).fb = s.fb := rfl
@[simp] theorem State.setI_mem (w : Word) : (s.setI w).mem = s.mem := rfl
@[simp] theorem State.setI_fault (w : Word) : (s.setI w).fault = s.fault := rfl
@[simp] theorem State.setI_rnd (w : Word) : (s.setI w).rnd = s.rnd := rfl
@[simp] theorem State.setI_draws (w : Word) : (s.setI w).draws = s.draws := rfl
@[simp] theorem State.setI_pending (w : Word) : (s.setI w).pending = s.pending := rfl
@[simp] theorem State.setI_reg (w : Word) (r : RegIdx) : (s.setI w).reg r = s.reg r := rfl
@[simp] theorem State.setI_byte (w : Word) (a : Nat) : (s.setI w).byte a = s.byte a := rfl
@[simp] theorem State.setI_pixel (w : Word) (r c : Nat) : (s.setI w).pixel r c = s.pixel r c := rfl
@[simp] theorem State.setI_stackAt (w : Word) (k : Fin Config.stackDepth) : (s.setI w).stackAt k = s.stackAt k := rfl
@[simp] theorem State.setI_key (w : Word) (k : Fin Config.numKeys) : (s.setI w).key k = s.key k := rfl
@[simp] theorem State.setI_halted (w : Word) : (s.setI w).halted = s.halted := rfl
@[simp] theorem State.setI_soundOn (w : Word) : (s.setI w).soundOn = s.soundOn := rfl

/-! ### setPc -/

@[simp] theorem State.setPc_cfg (w : Word) : (s.setPc w).cfg = s.cfg := rfl
@[simp] theorem State.setPc_v (w : Word) : (s.setPc w).v = s.v := rfl
@[simp] theorem State.setPc_i (w : Word) : (s.setPc w).i = s.i := rfl
@[simp] theorem State.setPc_pc (w : Word) : (s.setPc w).pc = w := rfl
@[simp] theorem State.setPc_stack (w : Word) : (s.setPc w).stack = s.stack := rfl
@[simp] theorem State.setPc_sp (w : Word) : (s.setPc w).sp = s.sp := rfl
@[simp] theorem State.setPc_dt (w : Word) : (s.setPc w).dt = s.dt := rfl
@[simp] theorem State.setPc_st (w : Word) : (s.setPc w).st = s.st := rfl
@[simp] theorem State.setPc_keys (w : Word) : (s.setPc w).keys = s.keys := rfl
@[simp] theorem State.setPc_fb (w : Word) : (s.setPc w).fb = s.fb := rfl
@[simp] theorem State.setPc_mem (w : Word) : (s.setPc w).mem = s.mem := rfl
@[simp] theorem State.setPc_fault (w : Word) : (s.setPc w).fault = s.fault := rfl
@[simp] theorem State.setPc_rnd (w : Word) : (s.setPc w).rnd = s.rnd := rfl
@[simp] theorem State.setPc_draws (w : Word) : (s.setPc w).draws = s.draws := rfl
@[simp] theorem State.setPc_pending (w : Word) : (s.setPc w).pending = s.pending := rfl
@[simp] theorem State.setPc_reg (w : Word) (r : RegIdx) : (s.setPc w).reg r = s.reg r := rfl
@[simp] theorem State.setPc_byte (w : Word) (a : Nat) : (s.setPc w).byte a = s.byte a := rfl
@[simp] theorem State.setPc_pixel (w : Word) (r c : Nat) : (s.setPc w).pixel r c = s.pixel r c := rfl
@[simp] theorem State.setPc_stackAt (w : Word) (k : Fin Config.stackDepth) : (s.setPc w).stackAt k = s.stackAt k := rfl
@[simp] theorem State.setPc_key (w : Word) (k : Fin Config.numKeys) : (s.setPc w).key k = s.key k := rfl
@[simp] theorem State.setPc_halted (w : Word) : (s.setPc w).halted = s.halted := rfl
@[simp] theorem State.setPc_soundOn (w : Word) : (s.setPc w).soundOn = s.soundOn := rfl

/-! ### setDt -/

@[simp] theorem State.setDt_cfg (b : Byte) : (s.setDt b).cfg = s.cfg := rfl
@[simp] theorem State.setDt_v (b : Byte) : (s.setDt b).v = s.v := rfl
@[simp] theorem State.setDt_i (b : Byte) : (s.setDt b).i = s.i := rfl
@[simp] theorem State.setDt_pc (b : Byte) : (s.setDt b).pc = s.pc := rfl
@[simp] theorem State.setDt_stack (b : Byte) : (s.setDt b).stack = s.stack := rfl
@[simp] theorem State.setDt_sp (b : Byte) : (s.setDt b).sp = s.sp := rfl
@[simp] theorem State.setDt_dt (b : Byte) : (s.setDt b).dt = b := rfl
@[simp] theorem State.setDt_st (b : Byte) : (s.setDt b).st = s.st := rfl
@[simp] theorem State.setDt_keys (b : Byte) : (s.setDt b).keys = s.keys := rfl
@[simp] theorem State.setDt_fb (b : Byte) : (s.setDt b).fb = s.fb := rfl
@[simp] theorem State.setDt_mem (b : Byte) : (s.setDt b).mem = s.mem := rfl
@[simp] theorem State.setDt_fault (b : Byte) : (s.setDt b).fault = s.fault := rfl
@[simp] theorem State.setDt_rnd (b : Byte) : (s.setDt b).rnd = s.rnd := rfl
@[simp] theorem State.setDt_draws (b : Byte) : (s.setDt b).draws = s.draws := rfl
@[simp] theorem State.setDt_pending (b : Byte) : (s.setDt b).pending = s.pending := rfl
@[simp] theorem State.setDt_reg (b : Byte) (r : RegIdx) : (s.setDt b).reg r = s.reg r := rfl
@[simp] theorem State.setDt_byte (b : Byte) (a : Nat) : (s.setDt b).byte a = s.byte a := rfl
@[simp] theorem State.setDt_pixel (b : Byte) (r c : Nat) : (s.setDt b).pixel r c = s.pixel r c := rfl
@[simp] theorem State.setDt_stackAt (b : Byte) (k : Fin Config.stackDepth) : (s.setDt b).stackAt k = s.stackAt k := rfl
@[simp] theorem State.setDt_key (b : Byte) (k : Fin Config.numKeys) : (s.setDt b).key k = s.key k := rfl
@[simp] theorem State.setDt_halted (b : Byte) : (s.setDt b).halted = s.halted := rfl
@[simp] theorem State.setDt_soundOn (b : Byte) : (s.setDt b).soundOn = s.soundOn := rfl

/-! ### setSt -/

@[simp] theorem State.setSt_cfg (b : Byte) : (s.setSt b).cfg = s.cfg := rfl
@[simp] theorem State.setSt_v (b : Byte) : (s.setSt b).v = s.v := rfl
@[simp] theorem State.setSt_i (b : Byte) : (s.setSt b).i = s.i := rfl
@[simp] theorem State.setSt_pc (b : Byte) : (s.setSt b).pc = s.pc := rfl
@[simp] theorem State.setSt_stack (b : Byte) : (s.setSt b).stack = s.stack := rfl
@[simp] theorem State.setSt_sp (b : Byte) : (s.setSt b).sp = s.sp := rfl
@[simp] theorem State.setSt_dt (b : Byte) : (s.setSt b).dt = s.dt := rfl
@[simp] theorem State.setSt_st (b : Byte) : (s.setSt b).st = b := rfl
@[simp] theorem State.setSt_keys (b : Byte) : (s.setSt b).keys = s.keys := rfl
@[simp] theorem State.setSt_fb (b : Byte) : (s.setSt b).fb = s.fb := rfl
@[simp] theorem State.setSt_mem (b : Byte) : (s.setSt b).mem = s.mem := rfl
@[simp] theorem State.setSt_fault (b : Byte) : (s.setSt b).fault = s.fault := rfl
@[simp] theorem State.setSt_rnd (b : Byte) : (s.setSt b).rnd = s.rnd := rfl
@[simp] theorem State.setSt_draws (b : Byte) : (s.setSt b).draws = s.draws := rfl
@[simp] theorem State.setSt_pending (b : Byte) : (s.setSt b).pending = s.pending := rfl
@[simp] theorem State.setSt_reg (b : Byte) (r : RegIdx) : (s.setSt b).reg r = s.reg r := rfl
@[simp] theorem State.setSt_byte (b : Byte) (a : Nat) : (s.setSt b).byte a = s.byte a := rfl
@[simp] theorem State.setSt_pixel (b : Byte) (r c : Nat) : (s.setSt b).pixel r c = s.pixel r c := rfl
@[simp] theorem State.setSt_stackAt (b : Byte) (k : Fin Config.stackDepth) : (s.setSt b).stackAt k = s.stackAt k := rfl
@[simp] theorem State.setSt_key (b : Byte) (k : Fin Config.numKeys) : (s.setSt b).key k = s.key k := rfl
@[simp] theorem State.setSt_halted (b : Byte) : (s.setSt b).halted = s.halted := rfl

/-! ### setKeys -/

@[simp] theorem State.setKeys_cfg (k : Vector Bool Config.numKeys) : (s.setKeys k).cfg = s.cfg := rfl
@[simp] theorem State.setKeys_v (k : Vector Bool Config.numKeys) : (s.setKeys k).v = s.v := rfl
@[simp] theorem State.setKeys_i (k : Vector Bool Config.numKeys) : (s.setKeys k).i = s.i := rfl
@[simp] theorem State.setKeys_pc (k : Vector Bool Config.numKeys) : (s.setKeys k).pc = s.pc := rfl
@[simp] theorem State.setKeys_stack (k : Vector Bool Config.numKeys) : (s.setKeys k).stack = s.stack := rfl
@[simp] theorem State.setKeys_sp (k : Vector Bool Config.numKeys) : (s.setKeys k).sp = s.sp := rfl
@[simp] theorem State.setKeys_dt (k : Vector Bool Config.numKeys) : (s.setKeys k).dt = s.dt := rfl
@[simp] theorem State.setKeys_st (k : Vector Bool Config.numKeys) : (s.setKeys k).st = s.st := rfl
@[simp] theorem State.setKeys_keys (k : Vector Bool Config.numKeys) : (s.setKeys k).keys = k := rfl
@[simp] theorem State.setKeys_fb (k : Vector Bool Config.numKeys) : (s.setKeys k).fb = s.fb := rfl
@[simp] theorem State.setKeys_mem (k : Vector Bool Config.numKeys) : (s.setKeys k).mem = s.mem := rfl
@[simp] theorem State.setKeys_fault (k : Vector Bool Config.numKeys) : (s.setKeys k).fault = s.fault := rfl
@[simp] theorem State.setKeys_rnd (k : Vector Bool Config.numKeys) : (s.setKeys k).rnd = s.rnd := rfl
@[simp] theorem State.setKeys_draws (k : Vector Bool Config.numKeys) : (s.setKeys k).draws = s.draws := rfl
@[simp] theorem State.setKeys_pending (k : Vector Bool Config.numKeys) : (s.setKeys k).pending = s.pending := rfl
@[simp] theorem State.setKeys_reg (k : Vector Bool Config.numKeys) (r : RegIdx) : (s.setKeys k).reg r = s.reg r := rfl
@[simp] theorem State.setKeys_byte (k : Vector Bool Config.numKeys) (a : Nat) : (s.setKeys k).byte a = s.byte a := rfl
@[simp] theorem State.setKeys_pixel (k : Vector Bool Config.numKeys) (r c : Nat) : (s.setKeys k).pixel r c = s.pixel r c := rfl
@[simp] theorem State.setKeys_stackAt (k : Vector Bool Config.numKeys) (j : Fin Config.stackDepth) : (s.setKeys k).stackAt j = s.stackAt j := rfl
@[simp] theorem State.setKeys_halted (k : Vector Bool Config.numKeys) : (s.setKeys k).halted = s.halted := rfl
@[simp] theorem State.setKeys_soundOn (k : Vector Bool Config.numKeys) : (s.setKeys k).soundOn = s.soundOn := rfl

/-! ### setStack -/

@[simp] theorem State.setStack_cfg (k : Vector Word Config.stackDepth) (p : Fin (Config.stackDepth + 1)) : (s.setStack k p).cfg = s.cfg := rfl
@[simp] theorem State.setStack_v (k : Vector Word Config.stackDepth) (p : Fin (Config.stackDepth + 1)) : (s.setStack k p).v = s.v := rfl
@[simp] theorem State.setStack_i (k : Vector Word Config.stackDepth) (p : Fin (Config.stackDepth + 1)) : (s.setStack k p).i = s.i := rfl
@[simp] theorem State.setStack_pc (k : Vector Word Config.stackDepth) (p : Fin (Config.stackDepth + 1)) : (s.setStack k p).pc = s.pc := rfl
@[simp] theorem State.setStack_stack (k : Vector Word Config.stackDepth) (p : Fin (Config.stackDepth + 1)) : (s.setStack k p).stack = k := rfl
@[simp] theorem State.setStack_sp (k : Vector Word Config.stackDepth) (p : Fin (Config.stackDepth + 1)) : (s.setStack k p).sp = p := rfl
@[simp] theorem State.setStack_dt (k : Vector Word Config.stackDepth) (p : Fin (Config.stackDepth + 1)) : (s.setStack k p).dt = s.dt := rfl
@[simp] theorem State.setStack_st (k : Vector Word Config.stackDepth) (p : Fin (Config.stackDepth + 1)) : (s.setStack k p).st = s.st := rfl
@[simp] theorem State.setStack_keys (k : Vector Word Config.stackDepth) (p : Fin (Config.stackDepth + 1)) : (s.setStack k p).keys = s.keys := rfl
@[simp] theorem State.setStack_fb (k : Vector Word Config.stackDepth) (p : Fin (Config.stackDepth + 1)) : (s.setStack k p).fb = s.fb := rfl
@[simp] theorem State.setStack_mem (k : Vector Word Config.stackDepth) (p : Fin (Config.stackDepth + 1)) : (s.setStack k p).mem = s.mem := rfl
@[simp] theorem State.setStack_fault (k : Vector Word Config.stackDepth) (p : Fin (Config.stackDepth + 1)) : (s.setStack k p).fault = s.fault := rfl
@[simp] theorem State.setStack_rnd (k : Vector Word Config.stackDepth) (p : Fin (Config.stackDepth + 1)) : (s.setStack k p).rnd = s.rnd := rfl
@[simp] theorem State.setStack_draws (k : Vector Word Config.stackDepth) (p : Fin (Config.stackDepth + 1)) : (s.setStack k p).draws = s.draws := rfl
@[simp] theorem State.setStack_pending (k : Vector Word Config.stackDepth) (p : Fin (Config.stackDepth + 1)) : (s.setStack k p).pending = s.pending := rfl
@[simp] theorem State.setStack_reg (k : Vector Word Config.stackDepth) (p : Fin (Config.stackDepth + 1)) (r : RegIdx) :
    (s.setStack k p).reg r = s.reg r := rfl
@[simp] theorem State.setStack_byte (k : Vector Word Config.stackDepth) (p : Fin (Config.stackDepth + 1)) (a : Nat) :
    (s.setStack k p).byte a = s.byte a := rfl
@[simp] theorem State.setStack_pixel (k : Vector Word Config.stackDepth) (p : Fin (Config.stackDepth + 1)) (r c : Nat) :
    (s.setStack k p).pixel r c = s.pixel r c := rfl
@[simp] theorem State.setStack_key (k : Vector Word Config.stackDepth) (p : Fin (Config.stackDepth + 1)) (j : Fin Config.numKeys) :
    (s.setStack k p).key j = s.key j := rfl
@[simp] theorem State.setStack_halted (k : Vector Word Config.stackDepth) (p : Fin (Config.stackDepth + 1)) :
    (s.setStack k p).halted = s.halted := rfl
@[simp] theorem State.setStack_soundOn (k : Vector Word Config.stackDepth) (p : Fin (Config.stackDepth + 1)) :
    (s.setStack k p).soundOn = s.soundOn := rfl

/-! ### setFb -/

@[simp] theorem State.setFb_cfg (fb : Framebuffer s.cfg.dispH) : (s.setFb fb).cfg = s.cfg := rfl
@[simp] theorem State.setFb_v (fb : Framebuffer s.cfg.dispH) : (s.setFb fb).v = s.v := rfl
@[simp] theorem State.setFb_i (fb : Framebuffer s.cfg.dispH) : (s.setFb fb).i = s.i := rfl
@[simp] theorem State.setFb_pc (fb : Framebuffer s.cfg.dispH) : (s.setFb fb).pc = s.pc := rfl
@[simp] theorem State.setFb_stack (fb : Framebuffer s.cfg.dispH) : (s.setFb fb).stack = s.stack := rfl
@[simp] theorem State.setFb_sp (fb : Framebuffer s.cfg.dispH) : (s.setFb fb).sp = s.sp := rfl
@[simp] theorem State.setFb_dt (fb : Framebuffer s.cfg.dispH) : (s.setFb fb).dt = s.dt := rfl
@[simp] theorem State.setFb_st (fb : Framebuffer s.cfg.dispH) : (s.setFb fb).st = s.st := rfl
@[simp] theorem State.setFb_keys (fb : Framebuffer s.cfg.dispH) : (s.setFb fb).keys = s.keys := rfl
@[simp] theorem State.setFb_fb (fb : Framebuffer s.cfg.dispH) : (s.setFb fb).fb = fb := rfl
@[simp] theorem State.setFb_mem (fb : Framebuffer s.cfg.dispH) : (s.setFb fb).mem = s.mem := rfl
@[simp] theorem State.setFb_fault (fb : Framebuffer s.cfg.dispH) : (s.setFb fb).fault = s.fault := rfl
@[simp] theorem State.setFb_rnd (fb : Framebuffer s.cfg.dispH) : (s.setFb fb).rnd = s.rnd := rfl
@[simp] theorem State.setFb_draws (fb : Framebuffer s.cfg.dispH) : (s.setFb fb).draws = s.draws := rfl
@[simp] theorem State.setFb_pending (fb : Framebuffer s.cfg.dispH) : (s.setFb fb).pending = s.pending := rfl
@[simp] theorem State.setFb_reg (fb : Framebuffer s.cfg.dispH) (r : RegIdx) : (s.setFb fb).reg r = s.reg r := rfl
@[simp] theorem State.setFb_byte (fb : Framebuffer s.cfg.dispH) (a : Nat) : (s.setFb fb).byte a = s.byte a := rfl
@[simp] theorem State.setFb_stackAt (fb : Framebuffer s.cfg.dispH) (k : Fin Config.stackDepth) : (s.setFb fb).stackAt k = s.stackAt k := rfl
@[simp] theorem State.setFb_key (fb : Framebuffer s.cfg.dispH) (k : Fin Config.numKeys) : (s.setFb fb).key k = s.key k := rfl
@[simp] theorem State.setFb_halted (fb : Framebuffer s.cfg.dispH) : (s.setFb fb).halted = s.halted := rfl
@[simp] theorem State.setFb_soundOn (fb : Framebuffer s.cfg.dispH) : (s.setFb fb).soundOn = s.soundOn := rfl

/-! ### setMem -/

@[simp] theorem State.setMem_cfg (m : Memory) : (s.setMem m).cfg = s.cfg := rfl
@[simp] theorem State.setMem_v (m : Memory) : (s.setMem m).v = s.v := rfl
@[simp] theorem State.setMem_i (m : Memory) : (s.setMem m).i = s.i := rfl
@[simp] theorem State.setMem_pc (m : Memory) : (s.setMem m).pc = s.pc := rfl
@[simp] theorem State.setMem_stack (m : Memory) : (s.setMem m).stack = s.stack := rfl
@[simp] theorem State.setMem_sp (m : Memory) : (s.setMem m).sp = s.sp := rfl
@[simp] theorem State.setMem_dt (m : Memory) : (s.setMem m).dt = s.dt := rfl
@[simp] theorem State.setMem_st (m : Memory) : (s.setMem m).st = s.st := rfl
@[simp] theorem State.setMem_keys (m : Memory) : (s.setMem m).keys = s.keys := rfl
@[simp] theorem State.setMem_fb (m : Memory) : (s.setMem m).fb = s.fb := rfl
@[simp] theorem State.setMem_mem (m : Memory) : (s.setMem m).mem = m := rfl
@[simp] theorem State.setMem_fault (m : Memory) : (s.setMem m).fault = s.fault := rfl
@[simp] theorem State.setMem_rnd (m : Memory) : (s.setMem m).rnd = s.rnd := rfl
@[simp] theorem State.setMem_draws (m : Memory) : (s.setMem m).draws = s.draws := rfl
@[simp] theorem State.setMem_pending (m : Memory) : (s.setMem m).pending = s.pending := rfl
@[simp] theorem State.setMem_reg (m : Memory) (r : RegIdx) : (s.setMem m).reg r = s.reg r := rfl
@[simp] theorem State.setMem_pixel (m : Memory) (r c : Nat) : (s.setMem m).pixel r c = s.pixel r c := rfl
@[simp] theorem State.setMem_stackAt (m : Memory) (k : Fin Config.stackDepth) : (s.setMem m).stackAt k = s.stackAt k := rfl
@[simp] theorem State.setMem_key (m : Memory) (k : Fin Config.numKeys) : (s.setMem m).key k = s.key k := rfl
@[simp] theorem State.setMem_halted (m : Memory) : (s.setMem m).halted = s.halted := rfl
@[simp] theorem State.setMem_soundOn (m : Memory) : (s.setMem m).soundOn = s.soundOn := rfl

/-! ### setFault -/

@[simp] theorem State.setFault_cfg (f : FaultRecord) : (s.setFault f).cfg = s.cfg := rfl
@[simp] theorem State.setFault_v (f : FaultRecord) : (s.setFault f).v = s.v := rfl
@[simp] theorem State.setFault_i (f : FaultRecord) : (s.setFault f).i = s.i := rfl
@[simp] theorem State.setFault_pc (f : FaultRecord) : (s.setFault f).pc = s.pc := rfl
@[simp] theorem State.setFault_stack (f : FaultRecord) : (s.setFault f).stack = s.stack := rfl
@[simp] theorem State.setFault_sp (f : FaultRecord) : (s.setFault f).sp = s.sp := rfl
@[simp] theorem State.setFault_dt (f : FaultRecord) : (s.setFault f).dt = s.dt := rfl
@[simp] theorem State.setFault_st (f : FaultRecord) : (s.setFault f).st = s.st := rfl
@[simp] theorem State.setFault_keys (f : FaultRecord) : (s.setFault f).keys = s.keys := rfl
@[simp] theorem State.setFault_fb (f : FaultRecord) : (s.setFault f).fb = s.fb := rfl
@[simp] theorem State.setFault_mem (f : FaultRecord) : (s.setFault f).mem = s.mem := rfl
@[simp] theorem State.setFault_fault (f : FaultRecord) : (s.setFault f).fault = f := rfl
@[simp] theorem State.setFault_rnd (f : FaultRecord) : (s.setFault f).rnd = s.rnd := rfl
@[simp] theorem State.setFault_draws (f : FaultRecord) : (s.setFault f).draws = s.draws := rfl
@[simp] theorem State.setFault_pending (f : FaultRecord) : (s.setFault f).pending = s.pending := rfl
@[simp] theorem State.setFault_reg (f : FaultRecord) (r : RegIdx) : (s.setFault f).reg r = s.reg r := rfl
@[simp] theorem State.setFault_byte (f : FaultRecord) (a : Nat) : (s.setFault f).byte a = s.byte a := rfl
@[simp] theorem State.setFault_pixel (f : FaultRecord) (r c : Nat) : (s.setFault f).pixel r c = s.pixel r c := rfl
@[simp] theorem State.setFault_stackAt (f : FaultRecord) (k : Fin Config.stackDepth) : (s.setFault f).stackAt k = s.stackAt k := rfl
@[simp] theorem State.setFault_key (f : FaultRecord) (k : Fin Config.numKeys) : (s.setFault f).key k = s.key k := rfl
@[simp] theorem State.setFault_soundOn (f : FaultRecord) : (s.setFault f).soundOn = s.soundOn := rfl

/-! ### sampleInput -/

@[simp] theorem State.sampleInput_cfg (r : Byte) : (s.sampleInput r).cfg = s.cfg := rfl
@[simp] theorem State.sampleInput_v (r : Byte) : (s.sampleInput r).v = s.v := rfl
@[simp] theorem State.sampleInput_i (r : Byte) : (s.sampleInput r).i = s.i := rfl
@[simp] theorem State.sampleInput_pc (r : Byte) : (s.sampleInput r).pc = s.pc := rfl
@[simp] theorem State.sampleInput_stack (r : Byte) : (s.sampleInput r).stack = s.stack := rfl
@[simp] theorem State.sampleInput_sp (r : Byte) : (s.sampleInput r).sp = s.sp := rfl
@[simp] theorem State.sampleInput_dt (r : Byte) : (s.sampleInput r).dt = s.dt := rfl
@[simp] theorem State.sampleInput_st (r : Byte) : (s.sampleInput r).st = s.st := rfl
@[simp] theorem State.sampleInput_keys (r : Byte) : (s.sampleInput r).keys = s.keys := rfl
@[simp] theorem State.sampleInput_fb (r : Byte) : (s.sampleInput r).fb = s.fb := rfl
@[simp] theorem State.sampleInput_mem (r : Byte) : (s.sampleInput r).mem = s.mem := rfl
@[simp] theorem State.sampleInput_fault (r : Byte) : (s.sampleInput r).fault = s.fault := rfl
@[simp] theorem State.sampleInput_rnd (r : Byte) : (s.sampleInput r).rnd = r := rfl
@[simp] theorem State.sampleInput_draws (r : Byte) : (s.sampleInput r).draws = s.draws + 1 := rfl
@[simp] theorem State.sampleInput_pending (r : Byte) : (s.sampleInput r).pending = s.pending := rfl
@[simp] theorem State.sampleInput_reg (r : Byte) (x : RegIdx) : (s.sampleInput r).reg x = s.reg x := rfl
@[simp] theorem State.sampleInput_byte (r : Byte) (a : Nat) : (s.sampleInput r).byte a = s.byte a := rfl
@[simp] theorem State.sampleInput_pixel (r : Byte) (y c : Nat) : (s.sampleInput r).pixel y c = s.pixel y c := rfl
@[simp] theorem State.sampleInput_stackAt (r : Byte) (k : Fin Config.stackDepth) : (s.sampleInput r).stackAt k = s.stackAt k := rfl
@[simp] theorem State.sampleInput_key (r : Byte) (k : Fin Config.numKeys) : (s.sampleInput r).key k = s.key k := rfl
@[simp] theorem State.sampleInput_halted (r : Byte) : (s.sampleInput r).halted = s.halted := rfl
@[simp] theorem State.sampleInput_soundOn (r : Byte) : (s.sampleInput r).soundOn = s.soundOn := rfl

/-! ### setPending -/

@[simp] theorem State.setPending_cfg (o : List HostOp) : (s.setPending o).cfg = s.cfg := rfl
@[simp] theorem State.setPending_v (o : List HostOp) : (s.setPending o).v = s.v := rfl
@[simp] theorem State.setPending_i (o : List HostOp) : (s.setPending o).i = s.i := rfl
@[simp] theorem State.setPending_pc (o : List HostOp) : (s.setPending o).pc = s.pc := rfl
@[simp] theorem State.setPending_stack (o : List HostOp) : (s.setPending o).stack = s.stack := rfl
@[simp] theorem State.setPending_sp (o : List HostOp) : (s.setPending o).sp = s.sp := rfl
@[simp] theorem State.setPending_dt (o : List HostOp) : (s.setPending o).dt = s.dt := rfl
@[simp] theorem State.setPending_st (o : List HostOp) : (s.setPending o).st = s.st := rfl
@[simp] theorem State.setPending_keys (o : List HostOp) : (s.setPending o).keys = s.keys := rfl
@[simp] theorem State.setPending_fb (o : List HostOp) : (s.setPending o).fb = s.fb := rfl
@[simp] theorem State.setPending_mem (o : List HostOp) : (s.setPending o).mem = s.mem := rfl
@[simp] theorem State.setPending_fault (o : List HostOp) : (s.setPending o).fault = s.fault := rfl
@[simp] theorem State.setPending_rnd (o : List HostOp) : (s.setPending o).rnd = s.rnd := rfl
@[simp] theorem State.setPending_draws (o : List HostOp) : (s.setPending o).draws = s.draws := rfl
@[simp] theorem State.setPending_pending (o : List HostOp) : (s.setPending o).pending = o := rfl
@[simp] theorem State.setPending_reg (o : List HostOp) (x : RegIdx) : (s.setPending o).reg x = s.reg x := rfl
@[simp] theorem State.setPending_byte (o : List HostOp) (a : Nat) : (s.setPending o).byte a = s.byte a := rfl
@[simp] theorem State.setPending_pixel (o : List HostOp) (y c : Nat) : (s.setPending o).pixel y c = s.pixel y c := rfl
@[simp] theorem State.setPending_stackAt (o : List HostOp) (k : Fin Config.stackDepth) : (s.setPending o).stackAt k = s.stackAt k := rfl
@[simp] theorem State.setPending_key (o : List HostOp) (k : Fin Config.numKeys) : (s.setPending o).key k = s.key k := rfl
@[simp] theorem State.setPending_halted (o : List HostOp) : (s.setPending o).halted = s.halted := rfl
@[simp] theorem State.setPending_soundOn (o : List HostOp) : (s.setPending o).soundOn = s.soundOn := rfl

/-! ### advance -/

@[simp] theorem State.advance_cfg : (s.advance).cfg = s.cfg := rfl
@[simp] theorem State.advance_v : (s.advance).v = s.v := rfl
@[simp] theorem State.advance_i : (s.advance).i = s.i := rfl
@[simp] theorem State.advance_pc : (s.advance).pc = s.pc + 2 := rfl
@[simp] theorem State.advance_stack : (s.advance).stack = s.stack := rfl
@[simp] theorem State.advance_sp : (s.advance).sp = s.sp := rfl
@[simp] theorem State.advance_dt : (s.advance).dt = s.dt := rfl
@[simp] theorem State.advance_st : (s.advance).st = s.st := rfl
@[simp] theorem State.advance_keys : (s.advance).keys = s.keys := rfl
@[simp] theorem State.advance_fb : (s.advance).fb = s.fb := rfl
@[simp] theorem State.advance_mem : (s.advance).mem = s.mem := rfl
@[simp] theorem State.advance_fault : (s.advance).fault = s.fault := rfl
@[simp] theorem State.advance_rnd : (s.advance).rnd = s.rnd := rfl
@[simp] theorem State.advance_draws : (s.advance).draws = s.draws := rfl
@[simp] theorem State.advance_pending : (s.advance).pending = s.pending := rfl
@[simp] theorem State.advance_reg (r : RegIdx) : (s.advance).reg r = s.reg r := rfl
@[simp] theorem State.advance_byte (a : Nat) : (s.advance).byte a = s.byte a := rfl
@[simp] theorem State.advance_pixel (r c : Nat) : (s.advance).pixel r c = s.pixel r c := rfl
@[simp] theorem State.advance_stackAt (k : Fin Config.stackDepth) : (s.advance).stackAt k = s.stackAt k := rfl
@[simp] theorem State.advance_key (k : Fin Config.numKeys) : (s.advance).key k = s.key k := rfl
@[simp] theorem State.advance_halted : (s.advance).halted = s.halted := rfl
@[simp] theorem State.advance_soundOn : (s.advance).soundOn = s.soundOn := rfl

/-! ### skipIf -/

@[simp] theorem State.skipIf_cfg (c : Bool) : (s.skipIf c).cfg = s.cfg := rfl
@[simp] theorem State.skipIf_v (c : Bool) : (s.skipIf c).v = s.v := rfl
@[simp] theorem State.skipIf_i (c : Bool) : (s.skipIf c).i = s.i := rfl
@[simp] theorem State.skipIf_pc (c : Bool) : (s.skipIf c).pc = if c then s.pc + 4 else s.pc + 2 := rfl
@[simp] theorem State.skipIf_stack (c : Bool) : (s.skipIf c).stack = s.stack := rfl
@[simp] theorem State.skipIf_sp (c : Bool) : (s.skipIf c).sp = s.sp := rfl
@[simp] theorem State.skipIf_dt (c : Bool) : (s.skipIf c).dt = s.dt := rfl
@[simp] theorem State.skipIf_st (c : Bool) : (s.skipIf c).st = s.st := rfl
@[simp] theorem State.skipIf_keys (c : Bool) : (s.skipIf c).keys = s.keys := rfl
@[simp] theorem State.skipIf_fb (c : Bool) : (s.skipIf c).fb = s.fb := rfl
@[simp] theorem State.skipIf_mem (c : Bool) : (s.skipIf c).mem = s.mem := rfl
@[simp] theorem State.skipIf_fault (c : Bool) : (s.skipIf c).fault = s.fault := rfl
@[simp] theorem State.skipIf_rnd (c : Bool) : (s.skipIf c).rnd = s.rnd := rfl
@[simp] theorem State.skipIf_draws (c : Bool) : (s.skipIf c).draws = s.draws := rfl
@[simp] theorem State.skipIf_pending (c : Bool) : (s.skipIf c).pending = s.pending := rfl
@[simp] theorem State.skipIf_reg (c : Bool) (r : RegIdx) : (s.skipIf c).reg r = s.reg r := rfl
@[simp] theorem State.skipIf_byte (c : Bool) (a : Nat) : (s.skipIf c).byte a = s.byte a := rfl
@[simp] theorem State.skipIf_pixel (c : Bool) (r y : Nat) : (s.skipIf c).pixel r y = s.pixel r y := rfl
@[simp] theorem State.skipIf_stackAt (c : Bool) (k : Fin Config.stackDepth) : (s.skipIf c).stackAt k = s.stackAt k := rfl
@[simp] theorem State.skipIf_key (c : Bool) (k : Fin Config.numKeys) : (s.skipIf c).key k = s.key k := rfl
@[simp] theorem State.skipIf_halted (c : Bool) : (s.skipIf c).halted = s.halted := rfl
@[simp] theorem State.skipIf_soundOn (c : Bool) : (s.skipIf c).soundOn = s.soundOn := rfl

/-! ### storeAtI -/

@[simp] theorem State.storeAtI_cfg (bs : List Byte) : (s.storeAtI bs).cfg = s.cfg := rfl
@[simp] theorem State.storeAtI_v (bs : List Byte) : (s.storeAtI bs).v = s.v := rfl
@[simp] theorem State.storeAtI_i (bs : List Byte) : (s.storeAtI bs).i = s.i := rfl
@[simp] theorem State.storeAtI_pc (bs : List Byte) : (s.storeAtI bs).pc = s.pc := rfl
@[simp] theorem State.storeAtI_stack (bs : List Byte) : (s.storeAtI bs).stack = s.stack := rfl
@[simp] theorem State.storeAtI_sp (bs : List Byte) : (s.storeAtI bs).sp = s.sp := rfl
@[simp] theorem State.storeAtI_dt (bs : List Byte) : (s.storeAtI bs).dt = s.dt := rfl
@[simp] theorem State.storeAtI_st (bs : List Byte) : (s.storeAtI bs).st = s.st := rfl
@[simp] theorem State.storeAtI_keys (bs : List Byte) : (s.storeAtI bs).keys = s.keys := rfl
@[simp] theorem State.storeAtI_fb (bs : List Byte) : (s.storeAtI bs).fb = s.fb := rfl
@[simp] theorem State.storeAtI_mem (bs : List Byte) : (s.storeAtI bs).mem = s.mem.writeList s.cfg s.i.toNat bs := rfl
@[simp] theorem State.storeAtI_fault (bs : List Byte) : (s.storeAtI bs).fault = s.fault := rfl
@[simp] theorem State.storeAtI_rnd (bs : List Byte) : (s.storeAtI bs).rnd = s.rnd := rfl
@[simp] theorem State.storeAtI_draws (bs : List Byte) : (s.storeAtI bs).draws = s.draws := rfl
@[simp] theorem State.storeAtI_pending (bs : List Byte) : (s.storeAtI bs).pending = s.pending := rfl
@[simp] theorem State.storeAtI_reg (bs : List Byte) (r : RegIdx) : (s.storeAtI bs).reg r = s.reg r := rfl
@[simp] theorem State.storeAtI_pixel (bs : List Byte) (r c : Nat) : (s.storeAtI bs).pixel r c = s.pixel r c := rfl
@[simp] theorem State.storeAtI_stackAt (bs : List Byte) (k : Fin Config.stackDepth) : (s.storeAtI bs).stackAt k = s.stackAt k := rfl
@[simp] theorem State.storeAtI_key (bs : List Byte) (k : Fin Config.numKeys) : (s.storeAtI bs).key k = s.key k := rfl
@[simp] theorem State.storeAtI_halted (bs : List Byte) : (s.storeAtI bs).halted = s.halted := rfl
@[simp] theorem State.storeAtI_soundOn (bs : List Byte) : (s.storeAtI bs).soundOn = s.soundOn := rfl

/-! ### Reads of what was written -/

theorem State.reg_setReg (x r : RegIdx) (b : Byte) : (s.setReg x b).reg r = if r = x then b else s.reg r := by
  simp only [State.reg, State.setReg, Fin.getElem_fin, Vector.getElem_set, Fin.val_inj, eq_comm]

@[simp] theorem State.reg_setReg_same (x : RegIdx) (b : Byte) : (s.setReg x b).reg x = b := by
  simp [State.reg_setReg]

theorem State.reg_setReg_of_ne {x r : RegIdx} (b : Byte) (h : r ≠ x) : (s.setReg x b).reg r = s.reg r := by
  simp [State.reg_setReg, h]

/-- The write order of R101: the flag is what VF holds, also when VF is the destination. -/
theorem State.reg_writeAlu (x r : RegIdx) (out : AluOut) :
    (s.writeAlu x out).reg r = if r = vf then flagByte out.2 else if r = x then out.1 else s.reg r := by
  simp only [State.writeAlu, State.reg_setReg]

@[simp] theorem State.setRegs_reg (v : Vector Byte Config.numRegs) (r : RegIdx) : (s.setRegs v).reg r = v[r.val] := rfl
@[simp] theorem State.setStack_stackAt (k : Vector Word Config.stackDepth) (p : Fin (Config.stackDepth + 1))
    (j : Fin Config.stackDepth) : (s.setStack k p).stackAt j = k[j.val] := rfl
@[simp] theorem State.setMem_byte (m : Memory) (a : Nat) : (s.setMem m).byte a = m.read s.cfg a := rfl
@[simp] theorem State.setFb_pixel (fb : Framebuffer s.cfg.dispH) (r c : Nat) : (s.setFb fb).pixel r c = fb.pixel r c := rfl
@[simp] theorem State.setKeys_key (k : Vector Bool Config.numKeys) (j : Fin Config.numKeys) :
    (s.setKeys k).key j = k[j.val] := rfl
@[simp] theorem State.storeAtI_byte (bs : List Byte) (a : Nat) :
    (s.storeAtI bs).byte a = (s.mem.writeList s.cfg s.i.toNat bs).read s.cfg a := rfl

end Sys2Proof.Machine
end

