-- ==== Sys2Proof/Laws/Ops.lean ====
section
/-! SUPPORT. For each shared operation, once, everything it can do; and what memory operations do to what State reads. -/

namespace Sys2Proof.Machine

open Sys2Proof

/-! ### Range checks and faults -/

/-- CheckRange succeeds exactly when no byte is touched or the last one is at 4095 or below (R44, R45). -/
theorem rangeOk_iff (policy : Config.OorPolicy) (addr len : Nat) :
    rangeOk policy addr len = true ↔ len = 0 ∨ addr + len ≤ 4096 := by
  cases policy
  simp only [rangeOk, Bool.or_eq_true, beq_iff_eq, decide_eq_true_eq, Config.memSize]
  omega

/-- Taking a fault is a next state in which FAULT alone has changed. -/
theorem raiseFault_eq (c : FaultCause) (op : Word) (s : State) :
    raiseFault c op s = .next (s.setFault ⟨c.kind, c, op, s.pc⟩) := rfl

theorem withRange_ok {i : Instr} {len : Nat} {s done : State} (h : len = 0 ∨ s.i.toNat + len ≤ 4096) :
    withRange i len s done = .next done := by
  rw [withRange, if_pos ((rangeOk_iff _ _ _).mpr h)]

theorem withRange_fault {i : Instr} {len : Nat} {s done : State} (h : ¬(len = 0 ∨ s.i.toNat + len ≤ 4096)) :
    withRange i len s done =
      .next (s.setFault ⟨.resourceExhausted, .memoryOutOfRange, encode i, s.pc⟩) := by
  rw [withRange, if_neg (mt (rangeOk_iff _ _ _).mp h)]
  rfl

/-- A guarded instruction answers a next state: its own, with its bytes in range, or the fault's. -/
theorem withRange_cases (i : Instr) (len : Nat) (s done : State) :
    ((len = 0 ∨ s.i.toNat + len ≤ 4096) ∧ withRange i len s done = .next done) ∨
    (¬(len = 0 ∨ s.i.toNat + len ≤ 4096) ∧ withRange i len s done =
      .next (s.setFault ⟨.resourceExhausted, .memoryOutOfRange, encode i, s.pc⟩)) := by
  by_cases h : len = 0 ∨ s.i.toNat + len ≤ 4096
  · exact .inl ⟨h, withRange_ok h⟩
  · exact .inr ⟨h, withRange_fault h⟩

/-! ### The call stack -/

/-- A push on a stack that is not full writes `S[SP]`, counts it, and changes nothing else. -/
theorem State.push_of_lt (s : State) (w : Word) (h : s.sp.val < 16) :
    s.push w = some (s.setStack (s.stack.set s.sp.val w h) ⟨s.sp.val + 1, Nat.succ_lt_succ h⟩) :=
  dif_pos h

theorem State.push_full (s : State) (w : Word) (h : s.sp.val = 16) : s.push w = none :=
  dif_neg (by rw [h]; decide)

/-- A pop of a stack that is not empty reads the top entry, uncounts it, and changes nothing else. -/
theorem State.pop_of_pos (s : State) (h : 0 < s.sp.val) :
    s.pop = some (s.stackAt ⟨s.sp.val - 1, by have := s.sp.isLt; omega⟩,
      s.setStack s.stack ⟨s.sp.val - 1, by have := s.sp.isLt; omega⟩) :=
  dif_pos h

theorem State.pop_empty (s : State) (h : s.sp.val = 0) : s.pop = none :=
  dif_neg (by omega)

/-! ### The fetch -/

/-- The fetch reads the big-endian word at PC, of any parity, when `PC <= 0xFFE` (R42). -/
theorem State.fetchWord_of_le (s : State) (h : s.pc.toNat ≤ 0xFFE) :
    s.fetchWord = some (wordOfBytes (s.byte s.pc.toNat) (s.byte (s.pc.toNat + 1))) :=
  if_pos ((rangeOk_iff _ _ _).mpr (by omega))

theorem State.fetchWord_of_gt (s : State) (h : 0xFFE < s.pc.toNat) : s.fetchWord = none :=
  if_neg (mt (rangeOk_iff _ _ _).mp (by omega))

theorem State.fetchWord_eq_some {s : State} {op : Word} (h : s.fetchWord = some op) :
    s.pc.toNat ≤ 0xFFE ∧ op = wordOfBytes (s.byte s.pc.toNat) (s.byte (s.pc.toNat + 1)) := by
  by_cases hp : s.pc.toNat ≤ 0xFFE
  · rw [s.fetchWord_of_le hp] at h; exact ⟨hp, (Option.some.inj h).symm⟩
  · rw [s.fetchWord_of_gt (by omega)] at h; cases h

/-! ### Memory seen through State -/

/-- A store at I: byte `k` of the list is at `I + k` afterwards, every other byte reads as before. -/
theorem State.byte_storeAtI (s : State) (bs : List Byte) (a : Nat) (h : s.i.toNat + bs.length ≤ 4096) :
    (s.storeAtI bs).byte a =
      if s.i.toNat ≤ a ∧ a < s.i.toNat + bs.length then bs.getD (a - s.i.toNat) 0 else s.byte a :=
  Memory.read_writeList _ _ _ _ h

@[simp] theorem State.length_bytesAtI (s : State) (len : Nat) : (s.bytesAtI len).length = len := by
  simp [State.bytesAtI]

@[simp] theorem State.length_regsTo (s : State) (x : RegIdx) : (s.regsTo x).length = x.val + 1 := by
  simp [State.regsTo]

@[simp] theorem length_bcdDigits (b : Byte) : (bcdDigits b).length = 3 := rfl

/-- Byte `k` of V0 to Vx is `V[k]`. -/
theorem State.getD_regsTo (s : State) (x : RegIdx) (k : Fin 16) (h : k ≤ x) :
    (s.regsTo x).getD k.val 0 = s.reg k := by
  have hk : k.val ≤ x.val := h
  rw [State.regsTo, List.getD_eq_getElem _ _ (by simp; omega), List.getElem_take]
  rfl

/-- Register `k` after a block load: the byte at `I + k` up to `x`, unchanged above. -/
@[simp] theorem State.getElem_regsLoadedTo (s : State) (x : RegIdx) (k : Fin 16) :
    (s.regsLoadedTo x)[k.val] = if k ≤ x then s.byte (s.i.toNat + k.val) else s.reg k := by
  simp [State.regsLoadedTo]

/-! ### The key that LD Vx,K takes -/

/-- `firstKey` is the smallest-numbered key that is down. -/
theorem State.firstKey_eq_some {s : State} {k : Fin 16} (h : s.firstKey = some k) :
    s.key k = true ∧ ∀ j < k, s.key j = false := by
  obtain ⟨hk, as, bs, hab, has⟩ := List.find?_eq_some_iff_append.mp h
  refine ⟨hk, fun j hj => ?_⟩
  have hp : (List.finRange 16).Pairwise (· < ·) := List.pairwise_lt_finRange 16
  have hj' : j ∈ as ++ k :: bs := hab ▸ List.mem_finRange j
  rcases List.mem_append.mp hj' with hm | hm
  · simpa using has j hm
  · rw [show (List.finRange Config.numKeys) = List.finRange 16 from rfl] at hab
    rw [hab, List.pairwise_append] at hp
    rcases List.mem_cons.mp hm with e | hm
    · exact absurd hj (e ▸ lt_irrefl _)
    · exact absurd hj (not_lt.mpr (le_of_lt ((List.pairwise_cons.mp hp.2.1).1 j hm)))

theorem State.firstKey_eq_none {s : State} : s.firstKey = none ↔ ∀ k, s.key k = false := by
  simp [State.firstKey, List.find?_eq_none]

end Sys2Proof.Machine
end

