-- ==== Sys2Proof/Laws/Exec.lean ====
section
/-! SUPPORT. For each instruction whose effect has cases, what each case answers; the other meanings have one case and are
unfolded by `rfl`. -/

namespace Sys2Proof.Machine

open Sys2Proof

variable (s : State)

/-! ### Control transfer -/

theorem exec_ret_cases :
    (∃ h : 0 < s.sp.val, exec .ret s = .next
      ((s.setStack s.stack ⟨s.sp.val - 1, by have := s.sp.isLt; omega⟩).setPc
        (s.stackAt ⟨s.sp.val - 1, by have := s.sp.isLt; omega⟩ + 2))) ∨
    (s.sp.val = 0 ∧ exec .ret s = .next (s.setFault ⟨.resourceExhausted, .stackUnderflow, encode .ret, s.pc⟩)) := by
  by_cases h : 0 < s.sp.val
  · exact .inl ⟨h, by simp only [exec, execRet, State.pop_of_pos s h]⟩
  · exact .inr ⟨by omega, by simp only [exec, execRet, State.pop_empty s (by omega), raiseFault, FaultCause.kind]⟩

theorem exec_call_cases (nnn : Addr12) :
    (∃ h : s.sp.val < 16, exec (.call nnn) s = .next
      ((s.setStack (s.stack.set s.sp.val s.pc h) ⟨s.sp.val + 1, Nat.succ_lt_succ h⟩).setPc (extNnn nnn))) ∨
    (s.sp.val = 16 ∧ exec (.call nnn) s =
      .next (s.setFault ⟨.resourceExhausted, .stackOverflow, encode (.call nnn), s.pc⟩)) := by
  by_cases h : s.sp.val < 16
  · exact .inl ⟨h, by simp only [exec, execCall, State.push_of_lt s _ h]⟩
  · have hs : s.sp.val < 17 := s.sp.isLt
    exact .inr ⟨by omega, by simp only [exec, execCall, State.push_full s _ (by omega), raiseFault, FaultCause.kind]⟩

/-! ### The keypad wait -/

theorem exec_ldVxK_cases (x : RegIdx) :
    (∃ k : Fin 16, s.key k = true ∧ (∀ j < k, s.key j = false) ∧
      exec (.ldVxK x) s = .next (s.setReg x (BitVec.ofNat 8 k.val)).advance) ∨
    ((∀ k, s.key k = false) ∧ exec (.ldVxK x) s = .next s) := by
  cases h : s.firstKey with
  | some k =>
    obtain ⟨h1, h2⟩ := State.firstKey_eq_some h
    exact .inl ⟨k, h1, h2, by simp only [exec, execLdVxK, h]⟩
  | none => exact .inr ⟨State.firstKey_eq_none.mp h, by simp only [exec, execLdVxK, h]⟩

/-! ### The instructions that check their range -/

theorem exec_ldB_cases (x : RegIdx) :
    (s.i.toNat + 3 ≤ 4096 ∧ exec (.ldB x) s = .next (s.storeAtI (bcdDigits (s.reg x))).advance) ∨
    (4096 < s.i.toNat + 3 ∧ exec (.ldB x) s =
      .next (s.setFault ⟨.resourceExhausted, .memoryOutOfRange, encode (.ldB x), s.pc⟩)) := by
  rcases withRange_cases (.ldB x) 3 s (s.storeAtI (bcdDigits (s.reg x))).advance with ⟨h, e⟩ | ⟨h, e⟩
  · exact .inl ⟨by omega, e⟩
  · exact .inr ⟨by omega, e⟩

theorem exec_ldMemVx_cases (x : RegIdx) :
    (s.i.toNat + (x.val + 1) ≤ 4096 ∧ exec (.ldMemVx x) s = .next (s.storeAtI (s.regsTo x)).advance) ∨
    (4096 < s.i.toNat + (x.val + 1) ∧ exec (.ldMemVx x) s =
      .next (s.setFault ⟨.resourceExhausted, .memoryOutOfRange, encode (.ldMemVx x), s.pc⟩)) := by
  rcases withRange_cases (.ldMemVx x) (x.val + 1) s (s.storeAtI (s.regsTo x)).advance with ⟨h, e⟩ | ⟨h, e⟩
  · exact .inl ⟨by omega, e⟩
  · exact .inr ⟨by omega, e⟩

theorem exec_ldVxMem_cases (x : RegIdx) :
    (s.i.toNat + (x.val + 1) ≤ 4096 ∧ exec (.ldVxMem x) s = .next (s.setRegs (s.regsLoadedTo x)).advance) ∨
    (4096 < s.i.toNat + (x.val + 1) ∧ exec (.ldVxMem x) s =
      .next (s.setFault ⟨.resourceExhausted, .memoryOutOfRange, encode (.ldVxMem x), s.pc⟩)) := by
  rcases withRange_cases (.ldVxMem x) (x.val + 1) s (s.setRegs (s.regsLoadedTo x)).advance with ⟨h, e⟩ | ⟨h, e⟩
  · exact .inl ⟨by omega, e⟩
  · exact .inr ⟨by omega, e⟩

/-- What DRW draws: the framebuffer after it, and whether it hit. -/
abbrev State.spriteDrawn (s : State) (x y : RegIdx) (n : Nibble) : Drawn Config.dispW s.cfg.dispH.rows :=
  s.fb.blit (s.reg x).toNat (s.reg y).toNat (s.bytesAtI n.toNat)

theorem exec_drw_cases (x y : RegIdx) (n : Nibble) :
    ((n.toNat = 0 ∨ s.i.toNat + n.toNat ≤ 4096) ∧ exec (.drw x y n) s =
      .next ((s.setFb (s.spriteDrawn x y n).1).setReg vf (flagByte (s.spriteDrawn x y n).2)).advance) ∨
    (¬(n.toNat = 0 ∨ s.i.toNat + n.toNat ≤ 4096) ∧ exec (.drw x y n) s =
      .next (s.setFault ⟨.resourceExhausted, .memoryOutOfRange, encode (.drw x y n), s.pc⟩)) :=
  withRange_cases (.drw x y n) n.toNat s
    ((s.setFb (s.spriteDrawn x y n).1).setReg vf (flagByte (s.spriteDrawn x y n).2)).advance

end Sys2Proof.Machine
end

