-- ==== Sys2Proof/Laws/Grid.lean ====
section
/-! SUPPORT. The laws of the pixel grid and of the sprite unit (R130 to R136). -/

namespace Sys2Proof.Machine

open Sys2Proof

variable {w h : Nat}

@[simp] theorem Grid.pixel_clear (w h r c : Nat) : (Grid.clear w h).pixel r c = false := by
  unfold Grid.pixel Grid.clear
  by_cases hr : r < h <;> by_cases hc : c < w <;> simp [hr, hc]

theorem Grid.pixel_setPixel (g : Grid w h) (r c r' c' : Nat) (b : Bool) :
    (g.setPixel r c b).pixel r' c' = if r' = r ∧ c' = c ∧ r < h ∧ c < w then b else g.pixel r' c' := by
  unfold Grid.setPixel Grid.pixel
  by_cases hr : r < h
  · by_cases hrr : r' = r
    · subst hrr
      by_cases hc : c < w
      · by_cases hcc : c' = c
        · subst hcc; simp [hr, hc]
        · simp [hr, hc, hcc, Ne.symm hcc]
      · have hset : ∀ row : Vector Bool w, row.setIfInBounds c b = row := by
          intro row; ext k hk; rw [Vector.getElem_setIfInBounds]; split <;> [omega; rfl]
        simp [hr, hc, hset]
    · have : r ≠ r' := fun e => hrr e.symm
      simp [hr, hrr, this]
  · simp [hr]

/-- Outside the grid there is no pixel on. -/
theorem Grid.pixel_outside (g : Grid w h) (r c : Nat) (ho : ¬(r < h ∧ c < w)) : g.pixel r c = false := by
  unfold Grid.pixel
  by_cases hr : r < h
  · have hc : ¬ c < w := fun hc => ho ⟨hr, hc⟩
    simp [hr, hc]
  · simp [hr]

/-- Two grids with the same pixels are equal. -/
theorem Grid.ext_pixel {g g' : Grid w h} (e : ∀ r < h, ∀ c < w, g.pixel r c = g'.pixel r c) : g = g' := by
  ext r hr c hc
  simpa [Grid.pixel, hr, hc] using e r hr c hc

/-- One sprite bit: the pixel it lands on is inverted, no other; it hits if it is 1 and that pixel was on. -/
theorem Grid.pixel_drawBit (x0 y : Nat) (b : Byte) (d : Drawn w h) (j r c : Nat) (hw : 0 < w) (hh : 0 < h) :
    (Grid.drawBit x0 y b d j).1.pixel r c =
      (d.1.pixel r c ^^ (b.getLsbD (7 - j) && decide (r = y % h ∧ c = (x0 + j) % w))) := by
  unfold Grid.drawBit
  have h1 := Nat.mod_lt y hh
  have h2 := Nat.mod_lt (x0 + j) hw
  cases hb : b.getLsbD (7 - j)
  · simp
  · simp only [if_true, Grid.pixel_setPixel, h1, h2, and_true]
    by_cases hr : r = y % h <;> by_cases hc : c = (x0 + j) % w <;> simp [hr, hc]

theorem Grid.hit_drawBit (x0 y : Nat) (b : Byte) (d : Drawn w h) (j : Nat) :
    (Grid.drawBit x0 y b d j).2 = (d.2 || (b.getLsbD (7 - j) && d.1.pixel (y % h) ((x0 + j) % w))) := by
  unfold Grid.drawBit
  cases b.getLsbD (7 - j) <;> simp

/-! ### A sprite row -/

/-- Up to `w` neighbouring places are different modulo `w`: the columns of a sprite row, the rows of a sprite. -/
theorem wrapped_ne {m w x0 j k : Nat} (hw : m ≤ w) (hj : j < m) (hk : k < m) (hne : j ≠ k) :
    (x0 + j) % w ≠ (x0 + k) % w := by
  intro e
  have h1 := Nat.div_add_mod (x0 + j) w
  have h2 := Nat.div_add_mod (x0 + k) w
  rw [e] at h1
  rcases lt_trichotomy ((x0 + j) / w) ((x0 + k) / w) with h | h | h
  · have := Nat.mul_le_mul_left w (Nat.succ_le_of_lt h); rw [Nat.mul_succ] at this; omega
  · rw [h] at h1; omega
  · have := Nat.mul_le_mul_left w (Nat.succ_le_of_lt h); rw [Nat.mul_succ] at this; omega

/-- Bit `j` of a sprite row drawn at column `x0`, row `y` is 1 and lands on (r, c). -/
def Grid.bitLands (w h x0 y : Nat) (b : Byte) (r c j : Nat) : Bool :=
  b.getLsbD (7 - j) && decide (r = y % h ∧ c = (x0 + j) % w)

theorem Grid.pixel_foldl_drawBit (x0 y : Nat) (b : Byte) (hw : 8 ≤ w) (hh : 0 < h) (r c : Nat) (js : List Nat)
    (hjs : ∀ j ∈ js, j < 8) (hnd : js.Nodup) (d : Drawn w h) :
    (js.foldl (Grid.drawBit x0 y b) d).1.pixel r c = (d.1.pixel r c ^^ js.any (Grid.bitLands w h x0 y b r c)) := by
  induction js generalizing d with
  | nil => simp
  | cons j js ih =>
    rw [List.foldl_cons, ih (fun k hk => hjs k (by simp [hk])) (List.nodup_cons.mp hnd).2,
      Grid.pixel_drawBit _ _ _ _ _ _ _ (by omega) hh, List.any_cons, Bool.xor_assoc]
    congr 1
    have hx : Grid.bitLands w h x0 y b r c j = true → js.any (Grid.bitLands w h x0 y b r c) = false := by
      intro hb
      rw [List.any_eq_false]
      intro k hk hl
      simp only [Grid.bitLands, Bool.and_eq_true, decide_eq_true_eq] at hb hl
      exact wrapped_ne hw (hjs j (by simp)) (hjs k (by simp [hk]))
        (fun e => (List.nodup_cons.mp hnd).1 (e ▸ hk)) (hb.2.2.symm.trans hl.2.2)
    rw [show (b.getLsbD (7 - j) && decide (r = y % h ∧ c = (x0 + j) % w)) = Grid.bitLands w h x0 y b r c j from rfl]
    cases hb : Grid.bitLands w h x0 y b r c j
    · simp
    · simp [hx hb]

theorem Grid.hit_foldl_drawBit (x0 y : Nat) (b : Byte) (hw : 8 ≤ w) (hh : 0 < h) (js : List Nat)
    (hjs : ∀ j ∈ js, j < 8) (hnd : js.Nodup) (d : Drawn w h) :
    (js.foldl (Grid.drawBit x0 y b) d).2 =
      (d.2 || js.any fun j => b.getLsbD (7 - j) && d.1.pixel (y % h) ((x0 + j) % w)) := by
  induction js generalizing d with
  | nil => simp
  | cons j js ih =>
    rw [List.foldl_cons, ih (fun k hk => hjs k (by simp [hk])) (List.nodup_cons.mp hnd).2, Grid.hit_drawBit,
      List.any_cons, Bool.or_assoc]
    congr 2
    have hne : ∀ k ∈ js, (x0 + k) % w ≠ (x0 + j) % w := fun k hk =>
      wrapped_ne hw (hjs k (by simp [hk])) (hjs j (by simp)) (fun e => (List.nodup_cons.mp hnd).1 (e ▸ hk))
    rw [Bool.eq_iff_iff, List.any_eq_true, List.any_eq_true]
    have : ∀ k ∈ js, (Grid.drawBit x0 y b d j).1.pixel (y % h) ((x0 + k) % w) = d.1.pixel (y % h) ((x0 + k) % w) := by
      intro k hk
      rw [Grid.pixel_drawBit _ _ _ _ _ _ _ (by omega) hh]
      simp [hne k hk]
    exact ⟨fun ⟨k, hk, e⟩ => ⟨k, hk, by rwa [this k hk] at e⟩, fun ⟨k, hk, e⟩ => ⟨k, hk, by rwa [this k hk]⟩⟩

/-- A sprite row covers (r, c): one of its 1 bits lands there (R131 to R133). -/
def Grid.RowCovers (w h x0 y : Nat) (b : Byte) (r c : Nat) : Prop :=
  r = y % h ∧ ∃ j < 8, c = (x0 + j) % w ∧ b.getLsbD (7 - j) = true

/-- One sprite row inverts the pixels it covers, and no other. -/
theorem Grid.pixel_drawRow (x0 y : Nat) (b : Byte) (d : Drawn w h) (hw : 8 ≤ w) (hh : 0 < h) (r c : Nat) :
    (Grid.RowCovers w h x0 y b r c → (Grid.drawRow x0 y b d).1.pixel r c = !d.1.pixel r c) ∧
    (¬Grid.RowCovers w h x0 y b r c → (Grid.drawRow x0 y b d).1.pixel r c = d.1.pixel r c) := by
  have e := Grid.pixel_foldl_drawBit x0 y b hw hh r c [0, 1, 2, 3, 4, 5, 6, 7] (by decide) (by decide) d
  rw [show List.foldl _ d _ = Grid.drawRow x0 y b d from rfl] at e
  constructor
  · rintro ⟨hr, j, hj, hc, hb⟩
    have : [0, 1, 2, 3, 4, 5, 6, 7].any (Grid.bitLands w h x0 y b r c) = true :=
      List.any_eq_true.mpr ⟨j, (show ∀ j < 8, j ∈ [0, 1, 2, 3, 4, 5, 6, 7] by decide) j hj, by
        simp [Grid.bitLands, hr, hb, hc]⟩
    rw [e, this, Bool.xor_true]
  · intro hn
    have : [0, 1, 2, 3, 4, 5, 6, 7].any (Grid.bitLands w h x0 y b r c) = false := by
      rw [List.any_eq_false]
      intro j hj hl
      simp only [Grid.bitLands, Bool.and_eq_true, decide_eq_true_eq] at hl
      exact hn ⟨hl.2.1, j, (show ∀ j ∈ [0, 1, 2, 3, 4, 5, 6, 7], j < 8 by decide) j hj, hl.2.2, hl.1⟩
    rw [e, this, Bool.xor_false]

/-- One sprite row hits if it covers a pixel that was on. -/
theorem Grid.hit_drawRow (x0 y : Nat) (b : Byte) (d : Drawn w h) (hw : 8 ≤ w) (hh : 0 < h) :
    (Grid.drawRow x0 y b d).2 = true ↔
      d.2 = true ∨ ∃ r c, Grid.RowCovers w h x0 y b r c ∧ d.1.pixel r c = true := by
  rw [Grid.drawRow, Grid.hit_foldl_drawBit x0 y b hw hh _ (by decide) (by decide), Bool.or_eq_true, List.any_eq_true]
  refine or_congr Iff.rfl ⟨?_, ?_⟩
  · rintro ⟨j, hj, e⟩
    rw [Bool.and_eq_true] at e
    exact ⟨_, _, ⟨rfl, j, (show ∀ j ∈ [0, 1, 2, 3, 4, 5, 6, 7], j < 8 by decide) j hj, rfl, e.1⟩, e.2⟩
  · rintro ⟨r, c, ⟨hr, j, hj, hc, hb⟩, e⟩
    subst hr; subst hc
    exact ⟨j, (show ∀ j < 8, j ∈ [0, 1, 2, 3, 4, 5, 6, 7] by decide) j hj, by rw [hb, e]; rfl⟩

/-! ### A sprite -/

/-- A sprite at column `x0`, row `y0` covers (r, c): one of its rows does. -/
def Grid.SpriteCovers (w h x0 y0 : Nat) (rows : List Byte) (r c : Nat) : Prop :=
  ∃ k b, rows[k]? = some b ∧ Grid.RowCovers w h x0 (y0 + k) b r c

theorem Grid.spriteCovers_cons {w h x0 y0 : Nat} {b : Byte} {bs : List Byte} {r c : Nat} :
    Grid.SpriteCovers w h x0 y0 (b :: bs) r c ↔
      Grid.RowCovers w h x0 y0 b r c ∨ Grid.SpriteCovers w h x0 (y0 + 1) bs r c := by
  constructor
  · rintro ⟨k, b', hb, hc⟩
    cases k with
    | zero => exact .inl (by cases hb; exact hc)
    | succ k => exact .inr ⟨k, b', by simpa using hb, by rwa [show y0 + 1 + k = y0 + (k + 1) by omega]⟩
  · rintro (hc | ⟨k, b', hb, hc⟩)
    · exact ⟨0, b, rfl, hc⟩
    · exact ⟨k + 1, b', by simpa using hb, by rwa [show y0 + (k + 1) = y0 + 1 + k by omega]⟩

/-- The rows of a sprite of at most `h` rows cover different pixels. -/
theorem Grid.not_both_cover {w h x0 y0 : Nat} {b : Byte} {bs : List Byte} {r c : Nat} (hl : bs.length + 1 ≤ h)
    (h1 : Grid.RowCovers w h x0 y0 b r c) (h2 : Grid.SpriteCovers w h x0 (y0 + 1) bs r c) : False := by
  obtain ⟨k, b', hb, hc⟩ := h2
  have hk : k < bs.length := (List.getElem?_eq_some_iff.mp hb).1
  refine wrapped_ne (m := bs.length + 1) (x0 := y0) (j := 0) (k := k + 1) hl (by omega) (by omega) (by omega) ?_
  rw [show y0 + (k + 1) = y0 + 1 + k by omega]
  exact h1.1.symm.trans hc.1

/-- The XOR-blit of at most `h` rows inverts the pixels the sprite covers, and no other; it hits if one of them was on
(R131, R133, R135). -/
theorem Grid.drawRows_spec (x0 : Nat) (bs : List Byte) (hw : 8 ≤ w) (y0 : Nat) (d : Drawn w h) (hl : bs.length ≤ h) :
    (∀ r c, Grid.SpriteCovers w h x0 y0 bs r c → (Grid.drawRows x0 y0 bs d).1.pixel r c = !d.1.pixel r c) ∧
    (∀ r c, ¬Grid.SpriteCovers w h x0 y0 bs r c → (Grid.drawRows x0 y0 bs d).1.pixel r c = d.1.pixel r c) ∧
    ((Grid.drawRows x0 y0 bs d).2 = true ↔
      d.2 = true ∨ ∃ r c, Grid.SpriteCovers w h x0 y0 bs r c ∧ d.1.pixel r c = true) := by
  induction bs generalizing y0 d with
  | nil =>
    have hn : ∀ r c, ¬Grid.SpriteCovers w h x0 y0 [] r c := by rintro r c ⟨k, b, hb, _⟩; simp at hb
    exact ⟨fun r c hc => absurd hc (hn r c), fun _ _ _ => rfl,
      ⟨.inl, fun hd => hd.elim id fun ⟨r, c, hc, _⟩ => absurd hc (hn r c)⟩⟩
  | cons b bs ih =>
    rw [List.length_cons] at hl
    have hh : 0 < h := by omega
    obtain ⟨i1, i2, i3⟩ := ih (y0 + 1) (Grid.drawRow x0 y0 b d) (by omega)
    have row := Grid.pixel_drawRow x0 y0 b d hw hh
    rw [Grid.drawRows]
    refine ⟨fun r c hc => ?_, fun r c hc => ?_, ?_⟩
    · rcases Grid.spriteCovers_cons.mp hc with h1 | h2
      · rw [i2 r c (Grid.not_both_cover hl h1), (row r c).1 h1]
      · rw [i1 r c h2, (row r c).2 fun h1 => Grid.not_both_cover hl h1 h2]
    · rw [Grid.spriteCovers_cons, not_or] at hc
      rw [i2 r c hc.2, (row r c).2 hc.1]
    · rw [i3, Grid.hit_drawRow x0 y0 b d hw hh, or_assoc]
      refine or_congr Iff.rfl ⟨?_, ?_⟩
      · rintro (⟨r, c, h1, hp⟩ | ⟨r, c, h2, hp⟩)
        · exact ⟨r, c, Grid.spriteCovers_cons.mpr (.inl h1), hp⟩
        · rw [(row r c).2 fun h1 => Grid.not_both_cover hl h1 h2] at hp
          exact ⟨r, c, Grid.spriteCovers_cons.mpr (.inr h2), hp⟩
      · rintro ⟨r, c, hc, hp⟩
        rcases Grid.spriteCovers_cons.mp hc with h1 | h2
        · exact .inl ⟨r, c, h1, hp⟩
        · exact .inr ⟨r, c, h2, by rwa [(row r c).2 fun h1 => Grid.not_both_cover hl h1 h2]⟩

end Sys2Proof.Machine
end

