-- ==== Sys2Proof/Laws/PerInstr.lean ====
section
/-! SUPPORT. Statements about every instruction as syntax, one lemma per constructor. -/

namespace Sys2Proof.Laws.OwnRow

open Sys2Proof

/-- The word of an instruction matches the instruction's own row of R66. -/
def Statement (i : Instr) : Prop := (encode i &&& i.row.format.mask) = i.row.value

/-! By format: the operands do not touch the fixed bits. -/

theorem of_a (nnn : Addr12) {v : Word} (hv : v &&& 0xF000 = v) : (v ||| nnn.setWidth 16) &&& 0xF000 = v :=
  and_mask_of_parts hv (setWidth_and_leading (Nat.le_refl 12) nnn)

theorem of_xk (x : RegIdx) (kk : Byte) {v : Word} (hv : v &&& 0xF000 = v) :
    (v ||| (placeX x ||| kk.setWidth 16)) &&& 0xF000 = v :=
  and_mask_of_parts hv (or_and_eq_zero (placeX_and_xk x) (setWidth_and_leading (by decide) kk))

theorem of_xyn (x y : RegIdx) (n : Nibble) {v : Word} (hv : v &&& 0xF000 = v) :
    (v ||| (placeX x ||| placeY y ||| n.setWidth 16)) &&& 0xF000 = v :=
  and_mask_of_parts hv (or_and_eq_zero (or_and_eq_zero (placeX_and_xk x) (placeY_and_xk y))
    (setWidth_and_leading (by decide) n))

theorem of_xy (x y : RegIdx) {v : Word} (hv : v &&& 0xF00F = v) : (v ||| (placeX x ||| placeY y)) &&& 0xF00F = v :=
  and_mask_of_parts hv (or_and_eq_zero (placeX_and_xy x) (placeY_and_xy y))

theorem of_x (x : RegIdx) {v : Word} (hv : v &&& 0xF0FF = v) : (v ||| placeX x) &&& 0xF0FF = v :=
  and_mask_of_parts hv (placeX_and_x x)

/-! By constructor. -/

theorem cls : Statement .cls := rfl
theorem ret : Statement .ret := rfl
theorem jp (nnn : Addr12) : Statement (.jp nnn) := of_a nnn (v := 0x1000) (by decide)
theorem call (nnn : Addr12) : Statement (.call nnn) := of_a nnn (v := 0x2000) (by decide)
theorem seImm (x : RegIdx) (kk : Byte) : Statement (.seImm x kk) := of_xk x kk (v := 0x3000) (by decide)
theorem sneImm (x : RegIdx) (kk : Byte) : Statement (.sneImm x kk) := of_xk x kk (v := 0x4000) (by decide)
theorem seReg (x : RegIdx) (y : RegIdx) : Statement (.seReg x y) := of_xy x y (v := 0x5000) (by decide)
theorem ldImm (x : RegIdx) (kk : Byte) : Statement (.ldImm x kk) := of_xk x kk (v := 0x6000) (by decide)
theorem addImm (x : RegIdx) (kk : Byte) : Statement (.addImm x kk) := of_xk x kk (v := 0x7000) (by decide)
theorem ldReg (x : RegIdx) (y : RegIdx) : Statement (.ldReg x y) := of_xy x y (v := 0x8000) (by decide)
theorem orReg (x : RegIdx) (y : RegIdx) : Statement (.orReg x y) := of_xy x y (v := 0x8001) (by decide)
theorem andReg (x : RegIdx) (y : RegIdx) : Statement (.andReg x y) := of_xy x y (v := 0x8002) (by decide)
theorem xorReg (x : RegIdx) (y : RegIdx) : Statement (.xorReg x y) := of_xy x y (v := 0x8003) (by decide)
theorem addReg (x : RegIdx) (y : RegIdx) : Statement (.addReg x y) := of_xy x y (v := 0x8004) (by decide)
theorem subReg (x : RegIdx) (y : RegIdx) : Statement (.subReg x y) := of_xy x y (v := 0x8005) (by decide)
theorem shr (x : RegIdx) (y : RegIdx) : Statement (.shr x y) := of_xy x y (v := 0x8006) (by decide)
theorem subnReg (x : RegIdx) (y : RegIdx) : Statement (.subnReg x y) := of_xy x y (v := 0x8007) (by decide)
theorem shl (x : RegIdx) (y : RegIdx) : Statement (.shl x y) := of_xy x y (v := 0x800E) (by decide)
theorem sneReg (x : RegIdx) (y : RegIdx) : Statement (.sneReg x y) := of_xy x y (v := 0x9000) (by decide)
theorem ldI (nnn : Addr12) : Statement (.ldI nnn) := of_a nnn (v := 0xA000) (by decide)
theorem jpV0 (nnn : Addr12) : Statement (.jpV0 nnn) := of_a nnn (v := 0xB000) (by decide)
theorem rnd (x : RegIdx) (kk : Byte) : Statement (.rnd x kk) := of_xk x kk (v := 0xC000) (by decide)
theorem drw (x : RegIdx) (y : RegIdx) (n : Nibble) : Statement (.drw x y n) := of_xyn x y n (v := 0xD000) (by decide)
theorem skp (x : RegIdx) : Statement (.skp x) := of_x x (v := 0xE09E) (by decide)
theorem sknp (x : RegIdx) : Statement (.sknp x) := of_x x (v := 0xE0A1) (by decide)
theorem ldVxDt (x : RegIdx) : Statement (.ldVxDt x) := of_x x (v := 0xF007) (by decide)
theorem ldVxK (x : RegIdx) : Statement (.ldVxK x) := of_x x (v := 0xF00A) (by decide)
theorem ldDtVx (x : RegIdx) : Statement (.ldDtVx x) := of_x x (v := 0xF015) (by decide)
theorem ldStVx (x : RegIdx) : Statement (.ldStVx x) := of_x x (v := 0xF018) (by decide)
theorem addI (x : RegIdx) : Statement (.addI x) := of_x x (v := 0xF01E) (by decide)
theorem ldF (x : RegIdx) : Statement (.ldF x) := of_x x (v := 0xF029) (by decide)
theorem ldB (x : RegIdx) : Statement (.ldB x) := of_x x (v := 0xF033) (by decide)
theorem ldMemVx (x : RegIdx) : Statement (.ldMemVx x) := of_x x (v := 0xF055) (by decide)
theorem ldVxMem (x : RegIdx) : Statement (.ldVxMem x) := of_x x (v := 0xF065) (by decide)

end Sys2Proof.Laws.OwnRow
end

