-- ==== Sys2Proof/Laws/Step.lean ====
section
/-! SUPPORT. What a Step and a transaction can do, said once. -/

namespace Sys2Proof.Machine

open Sys2Proof

/-! ### Runs -/

/-- A run of `n + 1` steps is one step and a run of `n`. -/
theorem run_succ_of_next (M : Host.Core) (n : Nat) {s t : M.State} (h : M.step s = .next t) :
    M.run (n + 1) s = M.run n t := by
  rw [Host.Core.run, h]

/-! ### Transactions -/

theorem step_of_idle {s : State} (h : s.pending = []) : step s = stepOp (Config.rndByte s.draws) s := by
  simp only [step, transact, h]

theorem step_of_pending {s : State} {op : HostOp} {rest : List HostOp} (h : s.pending = op :: rest) :
    step s = perform op (s.setPending rest) := by
  simp only [step, transact, h]

/-- When the next transaction is a Step, it is one with the input `stepInput` names. -/
theorem step_of_stepInput {s : State} {r : Byte} {rest : List HostOp} (h : s.stepInput = some (r, rest)) :
    step s = stepOp r (s.setPending rest) := by
  unfold State.stepInput at h
  cases hp : s.pending with
  | nil =>
    rw [hp] at h
    cases h
    rw [step_of_idle hp]
    congr 1
    cases s
    cases hp
    rfl
  | cons op tl =>
    rw [step_of_pending hp]
    rw [hp] at h
    cases op <;> cases h
    rfl

/-- A transaction is one operation: the oldest one waiting, or a Step with a free byte. -/
theorem step_cases (s : State) :
    (s.pending = [] ∧ step s = stepOp (Config.rndByte s.draws) s) ∨
    ∃ op rest, s.pending = op :: rest ∧ step s = perform op (s.setPending rest) := by
  cases h : s.pending with
  | nil => exact .inl ⟨rfl, step_of_idle h⟩
  | cons op rest => exact .inr ⟨op, rest, rfl, step_of_pending h⟩

/-! ### One Step -/

theorem stepOp_of_halted (r : Byte) {s : State} (h : s.halted = true) : stepOp r s = .next s := if_pos h

theorem stepOp_of_running (r : Byte) {s : State} (h : s.halted = false) : stepOp r s = cycle (s.sampleInput r) :=
  if_neg (by simp [h])

theorem cycle_of_decode {s : State} {op : Word} {i : Instr} (hf : s.fetchWord = some op) (hd : decode op = some i) :
    cycle s = exec i s := by
  simp only [cycle, hf, hd]

theorem cycle_of_unsupported {s : State} {op : Word} (hf : s.fetchWord = some op) (hd : decode op = none) :
    cycle s = .next (s.setFault ⟨.unsupportedOpcode, .illegalInstruction, op, s.pc⟩) := by
  simp only [cycle, hf, hd, raiseFault, FaultCause.kind]

theorem cycle_of_no_fetch {s : State} (hf : s.fetchWord = none) :
    cycle s = .next (s.setFault ⟨.resourceExhausted, .fetchOutOfRange, 0, s.pc⟩) := by
  simp only [cycle, hf, raiseFault, FaultCause.kind]

/-- A Step (R87): halted, or no word can be fetched, or the word is unsupported, or its instruction runs. -/
theorem stepOp_cases (r : Byte) (s : State) :
    (s.halted = true ∧ stepOp r s = .next s) ∨
    (s.halted = false ∧ 0xFFE < s.pc.toNat ∧
      stepOp r s = .next ((s.sampleInput r).setFault ⟨.resourceExhausted, .fetchOutOfRange, 0, s.pc⟩)) ∨
    (∃ op, s.halted = false ∧ s.fetchWord = some op ∧ decode op = none ∧
      stepOp r s = .next ((s.sampleInput r).setFault ⟨.unsupportedOpcode, .illegalInstruction, op, s.pc⟩)) ∨
    (∃ op i, s.halted = false ∧ s.fetchWord = some op ∧ decode op = some i ∧
      stepOp r s = exec i (s.sampleInput r)) := by
  cases hh : s.halted with
  | true => exact .inl ⟨rfl, stepOp_of_halted r hh⟩
  | false =>
    rw [stepOp_of_running r hh]
    cases hf : s.fetchWord with
    | none =>
      have hp : 0xFFE < s.pc.toNat := by
        by_contra hp
        rw [s.fetchWord_of_le (by omega)] at hf
        cases hf
      exact .inr (.inl ⟨rfl, hp, cycle_of_no_fetch hf⟩)
    | some op =>
      cases hd : decode op with
      | none => exact .inr (.inr (.inl ⟨op, rfl, rfl, hd, cycle_of_unsupported hf hd⟩))
      | some i => exact .inr (.inr (.inr ⟨op, i, rfl, rfl, hd, cycle_of_decode hf hd⟩))

end Sys2Proof.Machine
end

