-- ==== Sys2Proof/Laws/Words.lean ====
section
/-! SUPPORT. Words as numbers: the fields of a word, and the word of each format from its parts (R61, R62). -/

namespace Sys2Proof.Machine

open Sys2Proof

/-! ### The fields of a word -/

theorem fieldX_val (op : Word) : (fieldX op).val = op.toNat / 256 % 16 := by
  simp [fieldX, Nat.shiftRight_eq_div_pow]

theorem fieldY_val (op : Word) : (fieldY op).val = op.toNat / 16 % 16 := by
  simp [fieldY, Nat.shiftRight_eq_div_pow]

theorem fieldKK_toNat (op : Word) : (fieldKK op).toNat = op.toNat % 256 := by simp [fieldKK]

theorem fieldN_toNat (op : Word) : (fieldN op).toNat = op.toNat % 16 := by simp [fieldN]

theorem fieldNNN_toNat (op : Word) : (fieldNNN op).toNat = op.toNat % 4096 := by simp [fieldNNN]

theorem toNat_wordOfBytes (hi lo : Byte) : (wordOfBytes hi lo).toNat = hi.toNat * 0x100 + lo.toNat := by
  have := lo.isLt
  rw [wordOfBytes, BitVec.toNat_append, Nat.shiftLeft_eq, Nat.mul_comm,
    ← Nat.two_pow_add_eq_or_of_lt (by omega)]

/-! ### The word of a format from its parts -/

theorem placeX_toNat (x : RegIdx) : (placeX x).toNat = 2 ^ 8 * x.val := by revert x; decide

theorem placeY_toNat (y : RegIdx) : (placeY y).toNat = 2 ^ 4 * y.val := by revert y; decide

/-- A value below `2 ^ k` under a multiple of `2 ^ k`: `or` is `+`. -/
theorem or_low (k a b : Nat) (h : b < 2 ^ k) : 2 ^ k * a ||| b = 2 ^ k * a + b :=
  (Nat.two_pow_add_eq_or_of_lt h a).symm

theorem word_of_a (g : Nat) (nnn : Addr12) (hg : g < 16) :
    (BitVec.ofNat 16 (g * 0x1000) ||| nnn.setWidth 16).toNat = wordA g nnn := by
  have h1 := nnn.isLt
  simp only [BitVec.toNat_or, BitVec.toNat_ofNat, BitVec.toNat_setWidth, wordA]
  rw [Nat.mod_eq_of_lt (by omega), Nat.mod_eq_of_lt (by omega), show g * 0x1000 = 2 ^ 12 * g by ring,
    or_low _ _ _ (by omega)]

theorem word_of_xk (g : Nat) (x : RegIdx) (kk : Byte) (hg : g < 16) :
    (BitVec.ofNat 16 (g * 0x1000) ||| (placeX x ||| kk.setWidth 16)).toNat = wordXK g x kk := by
  have h1 := kk.isLt
  have hx := x.isLt
  simp only [BitVec.toNat_or, placeX_toNat, BitVec.toNat_ofNat, BitVec.toNat_setWidth, wordXK]
  rw [Nat.mod_eq_of_lt (by omega), Nat.mod_eq_of_lt (by omega), or_low _ _ _ (by omega),
    show g * 0x1000 = 2 ^ 12 * g by ring, or_low _ _ _ (by omega)]
  ring

theorem word_of_xy (g : Nat) (x y : RegIdx) (n : Nat) (hg : g < 16) (hn : n < 16) :
    (BitVec.ofNat 16 (g * 0x1000 + n) ||| (placeX x ||| placeY y)).toNat = wordXY g x y n := by
  have hx := x.isLt
  have hy := y.isLt
  simp only [BitVec.toNat_or, placeX_toNat, placeY_toNat, BitVec.toNat_ofNat, wordXY]
  rw [Nat.mod_eq_of_lt (by omega), show g * 0x1000 + n = 2 ^ 12 * g ||| n by rw [or_low _ _ _ (by omega)]; ring,
    or_low 8 _ _ (by omega), Nat.or_assoc, Nat.or_comm n,
    show 2 ^ 8 * x.val + 2 ^ 4 * y.val = 2 ^ 4 * (2 ^ 4 * x.val + y.val) by ring, or_low 4 _ _ (by omega),
    or_low _ _ _ (by omega)]
  ring

theorem word_of_xyn (g : Nat) (x y : RegIdx) (n : Nibble) (hg : g < 16) :
    (BitVec.ofNat 16 (g * 0x1000) ||| (placeX x ||| placeY y ||| n.setWidth 16)).toNat = wordXY g x y n.toNat := by
  have h1 := n.isLt
  have hx := x.isLt
  have hy := y.isLt
  simp only [BitVec.toNat_or, placeX_toNat, placeY_toNat, BitVec.toNat_ofNat, BitVec.toNat_setWidth, wordXY]
  rw [Nat.mod_eq_of_lt (by omega), Nat.mod_eq_of_lt (by omega), show g * 0x1000 = 2 ^ 12 * g by ring,
    or_low 8 _ _ (by omega), show 2 ^ 8 * x.val + 2 ^ 4 * y.val = 2 ^ 4 * (2 ^ 4 * x.val + y.val) by ring,
    or_low 4 _ _ (by omega), or_low _ _ _ (by omega)]
  ring

theorem word_of_x (g : Nat) (x : RegIdx) (sub : Nat) (hg : g < 16) (hs : sub < 256) :
    (BitVec.ofNat 16 (g * 0x1000 + sub) ||| placeX x).toNat = wordX g x sub := by
  have hx := x.isLt
  simp only [BitVec.toNat_or, placeX_toNat, BitVec.toNat_ofNat, wordX]
  rw [Nat.mod_eq_of_lt (by omega),
    show g * 0x1000 + sub = 2 ^ 12 * g ||| sub by rw [or_low _ _ _ (by omega)]; ring, Nat.or_assoc, Nat.or_comm sub,
    or_low 8 _ _ (by omega), or_low _ _ _ (by omega)]
  ring

end Sys2Proof.Machine
end

