-- ==== Sys2Proof/Tests/Slice0.lean ====
section
/-! SUPPORT. The model's own tests and the witnesses of the statements' hypotheses. Expected results are the spec's:
the opcode map R66 for words, the vectors of 95_test_vectors.md (named in each comment) for effects. -/

namespace Sys2Proof.Tests

open Sys2Proof Sys2Proof.Machine

/-! ## Helpers -/

/-- `s` with the listed registers set. -/
def put (rs : List (RegIdx × Byte)) (s : State) : State := rs.foldl (fun s p => s.setReg p.1 p.2) s

/-- `s` with the listed bytes in memory from `a` on. -/
def bytesAt (a : Nat) (bs : List Byte) (s : State) : State := s.setMem (s.mem.writeList s.cfg a bs)

/-- `s` with the given stack depth, every entry in use holding `w`. -/
def deep (n : Fin 17) (w : Word) (s : State) : State :=
  s.setStack (Vector.ofFn fun k => if k.val < n.val then w else 0) n

/-- The state an outcome holds; `s` itself for a stop, which no operation of this machine answers. -/
def got (s : State) : Result → State
  | .next t => t
  | .fault _ => s
  | .refused _ => s

/-- One step with the word placed at PC. -/
def after (w : Nat) (s : State) : State := got s (step (s.withFetchWord 16 w))

/-- One step with one operation of the host waiting. -/
def operated (op : HostOp) (s : State) : State := got s (step (s.setPending [op]))

/-- The reset state; the start of most vectors. -/
abbrev r0 : State := State.reset

/-- A machine with DISP_H = 64 (D1). -/
def tall : State := State.resetWith { Config.defaults with dispH := .rows64 }

/-- A machine with SHIFT_SRC = Vy (D12). -/
def otherShift : State := State.resetWith { Config.defaults with shiftSrc := .vy }

/-! ## WellFormed: one ill-formed term for each check -/

theorem test_wf_group0 : WellFormed.group0 0x00E1 = false ∧ WellFormed.word 0x0123 = false := by decide
theorem test_wf_group59 : WellFormed.group59 1 = false ∧ WellFormed.word 0x5121 = false ∧
    WellFormed.word 0x912F = false := by decide
theorem test_wf_group8 : WellFormed.group8 0xF = false ∧ WellFormed.word 0x8018 = false := by decide
theorem test_wf_groupE : WellFormed.groupE 0x9F = false ∧ WellFormed.word 0xE1A0 = false := by decide
theorem test_wf_groupF : WellFormed.groupF 0x30 = false ∧ WellFormed.word 0xF175 = false := by decide
theorem test_wf_glyphBase : WellFormed.glyphBase 0x1B1 = false ∧ WellFormed.glyphBase Config.defaults.glyphBase.val = true := by decide
theorem test_wf_font : WellFormed.font [0xF0, 0x90] = false ∧ WellFormed.font Config.font.toList = true := by decide
theorem test_wf_dispH : WellFormed.dispH 48 = false ∧ WellFormed.dispH 16 = false ∧
    WellFormed.dispH Config.defaults.dispH.rows = true := by decide

/-! ## Decoding: a word of every row, written out from the patterns of R66 -/

theorem test_decode_group0 : decode 0b0000_0000_1110_0000 = some .cls ∧ decode 0b0000_0000_1110_1110 = some .ret := by
  decide
theorem test_decode_jumps : decode 0b0001_1010_1011_1100 = some (.jp 0xABC) ∧
    decode 0b0010_1101_1110_1111 = some (.call 0xDEF) ∧ decode 0b1011_0011_0000_0000 = some (.jpV0 0x300) := by decide
theorem test_decode_skips : decode 0b0011_0011_0010_1010 = some (.seImm 3 0x2A) ∧
    decode 0b0100_0011_0010_1011 = some (.sneImm 3 0x2B) ∧ decode 0b0101_0001_0010_0000 = some (.seReg 1 2) ∧
    decode 0b1001_0001_0010_0000 = some (.sneReg 1 2) := by decide
theorem test_decode_moves : decode 0b0110_1010_0010_1111 = some (.ldImm 0xA 0x2F) ∧
    decode 0b0111_1111_0000_0001 = some (.addImm 0xF 0x01) ∧ decode 0b1000_0110_0001_0000 = some (.ldReg 6 1) := by decide
theorem test_decode_alu : decode 0b1000_0001_0010_0001 = some (.orReg 1 2) ∧
    decode 0b1000_0001_0010_0010 = some (.andReg 1 2) ∧ decode 0b1000_0001_0010_0011 = some (.xorReg 1 2) ∧
    decode 0b1000_0001_0010_0100 = some (.addReg 1 2) ∧ decode 0b1000_0001_0010_0101 = some (.subReg 1 2) ∧
    decode 0b1000_0001_0010_0110 = some (.shr 1 2) ∧ decode 0b1000_0001_0010_0111 = some (.subnReg 1 2) ∧
    decode 0b1000_0001_0010_1110 = some (.shl 1 2) := by decide
theorem test_decode_index : decode 0b1010_0000_0101_0000 = some (.ldI 0x050) ∧
    decode 0b1111_0010_0001_1110 = some (.addI 2) ∧ decode 0b1111_1111_0010_1001 = some (.ldF 15) ∧
    decode 0b1111_0011_0011_0011 = some (.ldB 3) ∧ decode 0b1111_0001_0101_0101 = some (.ldMemVx 1) ∧
    decode 0b1111_0100_0110_0101 = some (.ldVxMem 4) := by decide
theorem test_decode_display : decode 0b1101_0001_0010_0101 = some (.drw 1 2 5) := by decide
theorem test_decode_devices : decode 0b1100_0001_0000_1111 = some (.rnd 1 0x0F) ∧
    decode 0b1110_0001_1001_1110 = some (.skp 1) ∧ decode 0b1110_0001_1010_0001 = some (.sknp 1) ∧
    decode 0b1111_0010_0000_0111 = some (.ldVxDt 2) ∧ decode 0b1111_0101_0000_1010 = some (.ldVxK 5) ∧
    decode 0b1111_0010_0001_0101 = some (.ldDtVx 2) ∧ decode 0b1111_0000_0001_1000 = some (.ldStVx 0) := by decide
/-- FT16: the byte at the lower address is the high byte; one byte is no word. -/
theorem test_decode_bytes : decodeBytes [0x12, 0xAB, 0x77] = .instr (.jp 0x2AB) [0x77] ∧
    decodeBytes [0x00, 0x00] = .unsupportedOpcode 0 ∧ decodeBytes [0x12] = .truncated ∧
    decodeTableWord 16 0x12AB = some (.jp 0x2AB) := by decide
/-- FT2 to FT9 -/
theorem test_decode_unsupported : decode 0x0123 = none ∧ decode 0x00FE = none ∧ decode 0x5121 = none ∧
    decode 0x912F = none ∧ decode 0x801F = none ∧ decode 0xE19F = none ∧ decode 0xF156 = none := by decide

/-! ## Reset -/

/-- RL1, R27: the first and last glyph, and the bytes beside the font. -/
theorem test_reset_font : r0.window 0x04F 6 = [0x00, 0xF0, 0x90, 0x90, 0x90, 0xF0] ∧
    r0.window 0x09B 6 = [0xF0, 0x80, 0xF0, 0x80, 0x80, 0x00] := by decide
/-- R30 -/
theorem test_fault_codes : FaultKind.unsupportedOpcode.code = 1 ∧ FaultKind.resourceExhausted.code = 2 ∧
    FaultCause.illegalInstruction.code = 1 ∧ FaultCause.stackOverflow.code = 2 ∧ FaultCause.stackUnderflow.code = 3 ∧
    FaultCause.memoryOutOfRange.code = 4 ∧ FaultCause.fetchOutOfRange.code = 5 := by decide

/-! ## Control transfer -/

/-- CF1 -/
theorem test_jp : (after 0x1ABC r0).pc = 0x0ABC := by decide
/-- CF6, CF7 -/
theorem test_call_last_slot : (after 0x2300 (deep 15 0x400 r0)).stackAt 15 = 0x0200 ∧
    (after 0x2300 (deep 15 0x400 r0)).sp = 16 ∧ (after 0x2300 (deep 15 0x400 r0)).pc = 0x0300 := by decide
theorem test_call_overflow : (after 0x2300 (deep 16 0x400 r0)).fault =
    ⟨.resourceExhausted, .stackOverflow, 0x2300, 0x0200⟩ ∧ (after 0x2300 (deep 16 0x400 r0)).sp = 16 := by decide
/-- CF8, CF9 -/
theorem test_ret : (after 0x00EE (deep 1 0x204 r0)).pc = 0x0206 ∧ (after 0x00EE (deep 1 0x204 r0)).sp = 0 ∧
    (after 0x00EE (deep 1 0x204 r0)).stackAt 0 = 0x0204 := by decide
theorem test_ret_underflow : (after 0x00EE r0).fault = ⟨.resourceExhausted, .stackUnderflow, 0x00EE, 0x0200⟩ := by decide
/-- CF12, CF13 -/
theorem test_jpV0 : (after 0xBFFF (put [(0, 0xFF)] r0)).pc = 0x10FE ∧
    (after 0xB500 (put [(5, 0x77)] r0)).pc = 0x0500 := by decide
/-- CF14, CF15 -/
theorem test_seImm : (after 0x332A (put [(3, 0x2A)] r0)).pc = 0x0204 ∧
    (after 0x332B (put [(3, 0x2A)] r0)).pc = 0x0202 := by decide
/-- CF16, CF17 -/
theorem test_sneImm : (after 0x432A (put [(3, 0x2A)] r0)).pc = 0x0202 ∧
    (after 0x432B (put [(3, 0x2A)] r0)).pc = 0x0204 := by decide
/-- CF18, CF19 -/
theorem test_seReg : (after 0x5120 (put [(1, 7), (2, 7)] r0)).pc = 0x0204 ∧
    (after 0x5120 (put [(1, 7), (2, 8)] r0)).pc = 0x0202 := by decide
/-- CF21, CF22 -/
theorem test_sneReg : (after 0x9120 (put [(1, 7), (2, 8)] r0)).pc = 0x0204 ∧
    (after 0x9120 (put [(1, 7), (2, 7)] r0)).pc = 0x0202 := by decide

/-! ## The ALU -/

/-- AL1, AL2 -/
theorem test_ldImm : (after 0x6A2F (put [(15, 7)] r0)).reg 10 = 0x2F ∧ (after 0x6FAB (put [(15, 7)] r0)).reg 15 = 0xAB := by
  decide
/-- AL3, AL5 -/
theorem test_addImm : (after 0x7202 (put [(2, 0xFF), (15, 7)] r0)).reg 2 = 0x01 ∧
    (after 0x7202 (put [(2, 0xFF), (15, 7)] r0)).reg 15 = 0x07 ∧ (after 0x7F01 (put [(15, 0xFF)] r0)).reg 15 = 0 := by decide
/-- AL6 -/
theorem test_ldReg : (after 0x8010 (put [(1, 0x12)] r0)).reg 0 = 0x12 := by decide
/-- AL8, AL12 -/
theorem test_orReg : (after 0x8011 (put [(0, 0xF0), (1, 0x0F), (15, 7)] r0)).reg 0 = 0xFF ∧
    (after 0x8011 (put [(0, 0xF0), (1, 0x0F), (15, 7)] r0)).reg 15 = 0x07 ∧
    (after 0x8F01 (put [(15, 0x81), (0, 0x42)] r0)).reg 15 = 0xC3 := by decide
/-- AL9, AL10 -/
theorem test_andReg : (after 0x8012 (put [(0, 0xF0), (1, 0x3C)] r0)).reg 0 = 0x30 := by decide
theorem test_xorReg : (after 0x8013 (put [(0, 0xF0), (1, 0x3C)] r0)).reg 0 = 0xCC := by decide
/-- AL13, AL17, AL20 -/
theorem test_addReg : (after 0x8014 (put [(0, 0xFF), (1, 0x01)] r0)).reg 0 = 0x00 ∧
    (after 0x8014 (put [(0, 0xFF), (1, 0x01)] r0)).reg 15 = 0x01 := by decide
theorem test_addReg_into_flag : (after 0x8F04 (put [(15, 0x10), (0, 0x20)] r0)).reg 15 = 0x00 ∧
    (after 0x8FF4 (put [(15, 0x80)] r0)).reg 15 = 0x01 := by decide
/-- AL23, AL24, AL26 -/
theorem test_subReg : (after 0x8015 (put [(0, 3), (1, 5)] r0)).reg 0 = 0xFE ∧
    (after 0x8015 (put [(0, 3), (1, 5), (15, 7)] r0)).reg 15 = 0 ∧ (after 0x8015 (put [(0, 7), (1, 7)] r0)).reg 15 = 1 := by
  decide
theorem test_subReg_into_flag : (after 0x8F05 (put [(15, 9), (0, 4)] r0)).reg 15 = 1 := by decide
/-- AL30, AL31 -/
theorem test_subnReg : (after 0x8017 (put [(0, 3), (1, 5)] r0)).reg 0 = 2 ∧
    (after 0x8017 (put [(0, 3), (1, 5)] r0)).reg 15 = 1 ∧ (after 0x8017 (put [(0, 5), (1, 3)] r0)).reg 0 = 0xFE := by decide
/-- AL37, AL39 -/
theorem test_shr : (after 0x8016 (put [(0, 0xFF)] r0)).reg 0 = 0x7F ∧ (after 0x8016 (put [(0, 0xFF)] r0)).reg 15 = 1 ∧
    (after 0x8FF6 (put [(15, 2)] r0)).reg 15 = 0 := by decide
/-- AL41, AL42, AL43 -/
theorem test_shl : (after 0x801E (put [(0, 0xFF)] r0)).reg 0 = 0xFE ∧ (after 0x801E (put [(0, 0xFF)] r0)).reg 15 = 1 ∧
    (after 0x800E (put [(0, 0x41)] r0)).reg 0 = 0x82 ∧ (after 0x8FFE (put [(15, 0x80)] r0)).reg 15 = 1 := by decide

/-- AL37's remark: a machine that shifts Vy. -/
theorem test_shr_vy : (after 0x8016 (put [(0, 0xFF)] otherShift)).reg 0 = 0 ∧
    (after 0x8016 (put [(0, 0xFF)] otherShift)).reg 15 = 0 := by decide

/-! ## Index and memory -/

/-- IM2 -/
theorem test_ldI : (after 0xAFFF r0).i = 0x0FFF := by decide
/-- IM4, IM5 -/
theorem test_addI : (after 0xF01E ((put [(0, 1)] r0).setI 0x0FFF)).i = 0x1000 ∧
    (after 0xF01E ((put [(0, 1), (15, 7)] r0).setI 0xFFFF)).i = 0 ∧
    (after 0xF01E ((put [(0, 1), (15, 7)] r0).setI 0xFFFF)).reg 15 = 7 := by decide
/-- IM7, IM9 -/
theorem test_ldF : (after 0xF029 (put [(0, 0x0A)] r0)).i = 0x0082 ∧ (after 0xF029 (put [(0, 0xFF)] r0)).i = 0x054B := by
  decide
/-- IM16, IM17 -/
theorem test_ldB : (after 0xF333 ((put [(3, 0x9C)] r0).setI 0x0FFD)).window 0xFFD 3 = [1, 5, 6] := by decide
theorem test_ldB_out_of_range : (after 0xF333 ((put [(3, 0x9C)] r0).setI 0x0FFE)).fault =
    ⟨.resourceExhausted, .memoryOutOfRange, 0xF333, 0x0200⟩ ∧
    (after 0xF333 ((put [(3, 0x9C)] r0).setI 0x0FFE)).window 0xFFE 2 = [0, 0] := by decide
/-- IM18, IM21 -/
theorem test_ldMemVx : (after 0xF155 ((put [(0, 0x11), (1, 0x22), (2, 0x33)] r0).setI 0x400)).window 0x400 3 =
    [0x11, 0x22, 0] ∧ (after 0xF155 ((put [(0, 0x11), (1, 0x22), (2, 0x33)] r0).setI 0x400)).i = 0x400 := by decide
theorem test_ldMemVx_out_of_range : (after 0xF155 ((put [(0, 0x11)] r0).setI 0x0FFF)).fault.cause = .memoryOutOfRange ∧
    (after 0xF155 ((put [(0, 0x11)] r0).setI 0x0FFF)).byte 0xFFF = 0 := by decide
/-- IM25, IM28 -/
theorem test_ldVxMem : (after 0xF465 (r0.setI 0x050)).v.toList.take 6 = [0xF0, 0x90, 0x90, 0x90, 0xF0, 0] := by decide
theorem test_ldVxMem_out_of_range : (after 0xF165 (put [(0, 0x44)] (r0.setI 0x0FFF))).fault.cause = .memoryOutOfRange ∧
    (after 0xF165 (put [(0, 0x44)] (r0.setI 0x0FFF))).reg 0 = 0x44 := by decide

/-! ## Display -/

/-- A display with the one pixel at row 0, column 7 on. -/
def lit : State := r0.setFb (r0.fb.setPixel 0 7 true)

/-- DR1 -/
theorem test_cls : (after 0x00E0 (put [(15, 7)] lit)).pixel 0 7 = false ∧
    (after 0x00E0 (put [(15, 7)] lit)).reg 15 = 7 := by decide
/-- DR3: the sprite wraps at the right edge. -/
theorem test_drw_wraps : (after 0xD011 (put [(0, 60)] (bytesAt 0x300 [0xFF] (r0.setI 0x300)))).fb[0].toList =
    List.replicate 4 true ++ List.replicate 56 false ++ List.replicate 4 true := by decide
/-- DR6: row 255 mod DISP_H, with 32 rows and with 64. -/
theorem test_drw_height : (after 0xD011 (put [(0, 255), (1, 255)] (bytesAt 0x300 [0xC0] (r0.setI 0x300)))).pixel 31 63 = true ∧
    (after 0xD011 (put [(0, 255), (1, 255)] (bytesAt 0x300 [0xC0] (tall.setI 0x300)))).pixel 63 63 = true := by decide
/-- DR14 on a pixel that is on: it goes off and VF is 1. -/
theorem test_drw_collides : (after 0xD001 (bytesAt 0x300 [0x01] (lit.setI 0x300))).pixel 0 7 = false ∧
    (after 0xD001 (bytesAt 0x300 [0x01] (lit.setI 0x300))).reg 15 = 1 := by decide

/-! ## Timers, keys, random -/

/-- A keypad with one key down. -/
def holding (k : Fin 16) (s : State) : State := s.setKeys (Vector.ofFn fun j => j == k)

/-- TK1, TK2 -/
theorem test_ldVxDt : (after 0xF207 (r0.setDt 0x3C)).reg 2 = 0x3C := by decide
theorem test_ldDtVx : (after 0xF215 (put [(2, 0x3C)] r0)).dt = 0x3C := by decide
/-- TK3 -/
theorem test_ldStVx : (after 0xF018 (put [(0, 5)] r0)).st = 5 ∧ (after 0xF018 (put [(0, 5)] r0)).soundOn = true := by decide
/-- TK12, TK9 -/
theorem test_skp : (after 0xE19E (holding 10 (put [(1, 0xFA)] r0))).pc = 0x0204 ∧
    (after 0xE19E (put [(1, 0x0A)] r0)).pc = 0x0202 := by decide
/-- TK10, TK11 -/
theorem test_sknp : (after 0xE1A1 (holding 10 (put [(1, 0x0A)] r0))).pc = 0x0202 ∧
    (after 0xE1A1 (put [(1, 0x0A)] r0)).pc = 0x0204 := by decide
/-- TK13, TK15, and TK14's order: the lower of two keys. -/
theorem test_ldVxK : (after 0xF50A (put [(5, 0x77)] r0)).pc = 0x0200 ∧ (after 0xF50A (put [(5, 0x77)] r0)).reg 5 = 0x77 ∧
    (after 0xF50A (holding 15 r0)).reg 5 = 0x0F := by decide
theorem test_ldVxK_lowest : (after 0xF50A (r0.setKeys (Vector.ofFn fun j => j == 3 || j == 7))).reg 5 = 3 := by decide
/-- TK17, with the Step's random byte the host's: A7 -/
theorem test_rnd : (operated (.step 0xA7) (bytesAt 0x200 [0xC1, 0x0F] r0)).reg 1 = 0x07 := by decide

/-! ## The Step and the other operations -/

/-- FT1, FT13: the first Step after Reset with nothing loaded faults; the next changes nothing. -/
theorem test_unsupported : (operated (.step 0) r0).fault = ⟨.unsupportedOpcode, .illegalInstruction, 0, 0x0200⟩ ∧
    (operated (.step 0) (operated (.step 0) r0)).stepReturn =
      .error ⟨.unsupportedOpcode, .illegalInstruction, 0, 0x0200⟩ := by decide
/-- FT10, FT12 -/
theorem test_fetch_out_of_range : (operated (.step 0) (r0.setPc 0x0FFF)).fault =
    ⟨.resourceExhausted, .fetchOutOfRange, 0, 0x0FFF⟩ := by decide
theorem test_odd_pc : (after 0x6A2A (r0.setPc 0x201)).pc = 0x203 ∧ (after 0x6A2A (r0.setPc 0x201)).reg 10 = 0x2A := by decide
/-- TK5, and no wrap below 0 (TK6) -/
theorem test_tick : (operated .tick ((r0.setDt 2).setSt 1)).dt = 1 ∧ (operated .tick ((r0.setDt 2).setSt 1)).st = 0 ∧
    (operated .tick r0).dt = 0 := by decide
/-- RL6, S7: Load clears, then copies. -/
theorem test_load : (operated (.load [0x12, 0x00]) (bytesAt 0x400 [0xFC] (put [(0, 0xFC)] r0))).mem =
    [(0x200, 0x12)] ∧ (operated (.load [0x12, 0x00]) (put [(0, 0xFC)] r0)).reg 0 = 0 := by decide

/-! ## Witnesses: states and operands that meet the hypotheses of the statements, clause by clause -/

/-- An engine halted by a stack overflow, with a byte stored. -/
def stopped : State :=
  { deep 16 0x400 (bytesAt 0x200 [0x23, 0x00] r0) with fault := ⟨.resourceExhausted, .stackOverflow, 0x2300, 0x0200⟩ }

theorem witness_EncodeOfDecodeIsTheWord : decode 0x8126 = some (.shr 1 2) := by decide
theorem witness_NoWordMatchesTwoRows : Instr.drw 1 2 5 ∈ candidates 0xD125 ∧
    (Instr.drw 1 2 5).row.matches 0xD125 = true := by decide
theorem witness_StepRunsTheDecodedInstruction_idle : (bytesAt 0xFFE [0x6A, 0x2A] (r0.setPc 0xFFE)).halted = false ∧
    (bytesAt 0xFFE [0x6A, 0x2A] (r0.setPc 0xFFE)).pc.toNat ≤ 0xFFE ∧
    (0x6A2A : Word).toNat = (bytesAt 0xFFE [0x6A, 0x2A] (r0.setPc 0xFFE)).wordAtPc ∧
    decode 0x6A2A = some (.ldImm 10 0x2A) ∧ (bytesAt 0xFFE [0x6A, 0x2A] (r0.setPc 0xFFE)).pending = [] := by decide
theorem witness_StepRunsTheDecodedInstruction_waiting :
    (bytesAt 0x200 [0xC1, 0x0F] (r0.setPending [.step 0xA7, .tick])).halted = false ∧
    (bytesAt 0x200 [0xC1, 0x0F] (r0.setPending [.step 0xA7, .tick])).pc.toNat ≤ 0xFFE ∧
    (0xC10F : Word).toNat = (bytesAt 0x200 [0xC1, 0x0F] (r0.setPending [.step 0xA7, .tick])).wordAtPc ∧
    decode 0xC10F = some (.rnd 1 0x0F) ∧
    (bytesAt 0x200 [0xC1, 0x0F] (r0.setPending [.step 0xA7, .tick])).pending = .step 0xA7 :: [.tick] := by decide
theorem witness_PlacedWordRunsNext : 0xD125 < 0x10000 ∧ decodeTableWord 16 0xD125 = some (.drw 1 2 5) := by decide
theorem witness_FetchOutOfRangeFaults : (r0.setPc 0xFFF).halted = false ∧ (r0.setPc 0xFFF).stepInput ≠ none ∧
    0xFFF ≤ (r0.setPc 0xFFF).pc.toNat := by decide
theorem witness_UnsupportedOpcodeFaults : r0.halted = false ∧ r0.stepInput ≠ none ∧ r0.pc.toNat ≤ 0xFFE ∧
    (0 : Word).toNat = r0.wordAtPc ∧ WellFormed.word 0 = false := by decide
/-- A Step with no operation waiting, and one the host has issued; also of StepFaultsExactlyWhenTheTableSays. -/
theorem witness_FaultingStepWritesOnlyTheFaultRecord : (r0.halted = false ∧ r0.stepInput = some (Config.rndByte 0, []) ∧
      ∃ t, step r0 = .next t ∧ t.halted = true) ∧
    ((r0.setPending [.step 7, .tick]).halted = false ∧ (r0.setPending [.step 7, .tick]).stepInput = some (7, [.tick]) ∧
      ∃ t, step (r0.setPending [.step 7, .tick]) = .next t ∧ t.halted = true) :=
  ⟨⟨rfl, rfl, _, rfl, rfl⟩, rfl, rfl, _, rfl, rfl⟩
/-- The rows of the table at their boundaries: each word with its condition, just met and just not met. -/
theorem witness_StepFaultsExactlyWhenTheTableSays :
    (after 0x2300 (deep 16 0x400 r0)).halted = true ∧ (after 0x2300 (deep 15 0x400 r0)).halted = false ∧
    (after 0x00EE r0).halted = true ∧ (after 0x00EE (deep 1 0x400 r0)).halted = false ∧
    (after 0xD003 (r0.setI 0x0FFE)).halted = true ∧ (after 0xD003 (r0.setI 0x0FFD)).halted = false ∧
    (after 0xD000 (r0.setI 0xFFFF)).halted = false ∧
    (after 0xF333 (r0.setI 0x0FFE)).halted = true ∧ (after 0xF333 (r0.setI 0x0FFD)).halted = false ∧
    (after 0xFF55 (r0.setI 0x0FF1)).halted = true ∧ (after 0xFF55 (r0.setI 0x0FF0)).halted = false ∧
    (after 0xF065 (r0.setI 0x1000)).halted = true ∧ (after 0xF065 (r0.setI 0x0FFF)).halted = false := by decide
theorem witness_HaltedEngineStaysHalted : stopped.halted = true ∧ stopped.pending = [] := by decide
theorem witness_OnlyResetAndLoadLeaveHalted :
    ((stopped.setPending [.reset]).halted = true ∧
      ∃ t, step (stopped.setPending [.reset]) = .next t ∧ t.halted = false) ∧
    ((stopped.setPending [.load [0x12, 0x00]]).halted = true ∧
      ∃ t, step (stopped.setPending [.load [0x12, 0x00]]) = .next t ∧ t.halted = false) :=
  ⟨⟨rfl, _, rfl, rfl⟩, rfl, _, rfl, rfl⟩
/-- An engine halted by an LD [I],VF whose last byte is just above memory. -/
def strayed : State :=
  { (bytesAt 0x200 [0xFF, 0x55] r0).setI 0x0FF1 with fault := ⟨.resourceExhausted, .memoryOutOfRange, 0xFF55, 0x0200⟩ }

theorem witness_EveryTransactionKeepsTheInvariant : stopped.Inv ∧ ∃ t, step stopped = .next t :=
  ⟨⟨by decide, by decide, by decide, by decide, by decide, by decide, by decide, by decide⟩, _, rfl⟩
theorem witness_EveryTransactionKeepsTheInvariant_strayed : strayed.Inv ∧ ∃ t, step strayed = .next t :=
  ⟨⟨by decide, by decide, by decide, by decide, by decide, by decide,
    .inr (.inr ⟨by decide, by decide, by decide⟩)⟩, _, rfl⟩
/-- A Reset and a Load, in a machine of 64 rows. -/
theorem witness_NoTransactionChangesTheParameters : (∃ t, step (tall.setPending [.reset]) = .next t) ∧
    ∃ t, step (tall.setPending [.load [0x12, 0x00]]) = .next t :=
  ⟨⟨_, rfl⟩, _, rfl⟩
theorem witness_EqualMemoriesAreEqualData : Memory.wf Config.defaults [(0x050, 0x00), (0xFFF, 0x5A)] = true := by decide
/-- Of OnlyNamedInstructionsWriteAPart and of both clauses of RegistersAndFlagChangeOnlyAsNamed. -/
theorem witness_RegistersAndFlagChangeOnlyAsNamed : ∃ t, exec (.addReg 15 0) (put [(15, 0x80), (0, 0x80)] r0) = .next t ∧
    setsFlag (.addReg 15 0) = true ∧ (put [(15, 0x80), (0, 0x80)] r0).halted = false ∧ t.halted = false :=
  ⟨_, rfl, rfl, rfl, rfl⟩
theorem witness_CallPushesItsOwnAddress : (deep 15 0x400 r0).sp.val < 16 ∧ (deep 16 0x400 r0).sp.val = 16 := by decide
theorem witness_RetGoesPastTheCall : (deep 1 0x204 r0).sp.val = (0 : Fin 16).val + 1 ∧
    (deep 16 0xFFE r0).sp.val = (15 : Fin 16).val + 1 ∧ r0.sp.val = 0 := by decide
theorem witness_CallThenRetResumesAfterTheCall : (deep 15 0x400 r0).sp.val < 16 := by decide
theorem witness_ImmediateAndRegisterSkips : (put [(3, 0x2A)] r0).reg 3 = 0x2A ∧ (put [(3, 0x2A)] r0).reg 3 ≠ 0x2B ∧
    (put [(1, 7), (2, 7)] r0).reg 1 = (put [(1, 7), (2, 7)] r0).reg 2 ∧
    (put [(1, 7), (2, 8)] r0).reg 1 ≠ (put [(1, 7), (2, 8)] r0).reg 2 := by decide
theorem witness_AddSetsCarry : 255 < ((put [(0, 0xFF), (1, 1)] r0).reg 0).toNat + ((put [(0, 0xFF), (1, 1)] r0).reg 1).toNat ∧
    ¬255 < ((put [(0, 0xFE), (1, 1)] r0).reg 0).toNat + ((put [(0, 0xFE), (1, 1)] r0).reg 1).toNat := by decide
theorem witness_SubtractionsSetNotBorrow : ((put [(0, 7), (1, 7)] r0).reg 1).toNat ≤ ((put [(0, 7), (1, 7)] r0).reg 0).toNat ∧
    ¬((put [(0, 6), (1, 7)] r0).reg 1).toNat ≤ ((put [(0, 6), (1, 7)] r0).reg 0).toNat := by decide
/-- Each value of SHIFT_SRC, and an operand on either side of each flag. -/
theorem witness_ShiftsSetTheBitShiftedOut :
    (0x80 : Byte) = (if (put [(0, 0x80), (1, 0x7F)] r0).cfg.shiftSrc = .vx then (put [(0, 0x80), (1, 0x7F)] r0).reg 0
      else (put [(0, 0x80), (1, 0x7F)] r0).reg 1) ∧
    (0x7F : Byte) = (if (put [(0, 0x80), (1, 0x7F)] otherShift).cfg.shiftSrc = .vx
      then (put [(0, 0x80), (1, 0x7F)] otherShift).reg 0 else (put [(0, 0x80), (1, 0x7F)] otherShift).reg 1) ∧
    (0x80 : Byte).toNat % 2 ≠ 1 ∧ 128 ≤ (0x80 : Byte).toNat ∧ (0x7F : Byte).toNat % 2 = 1 ∧ ¬128 ≤ (0x7F : Byte).toNat := by
  decide
theorem witness_GlyphAddress : 5 * ((put [(0, 15)] r0).reg 0).toNat + 4 < 80 := by decide
theorem witness_BcdDigitsAreStored : (r0.setI 4093).i.toNat + 2 ≤ 4095 := by decide
/-- Of RegistersAreStored, RegistersAreLoaded and StoreThenLoadRestoresRegisters; and of StoredBytesAreFetchedNext, with
`k < x`. -/
theorem witness_block_in_range : (r0.setI 4080).i.toNat + (15 : RegIdx).val ≤ 4095 ∧ (14 : RegIdx) < 15 ∧
    (0xFFE : Word).toNat = (r0.setI 4080).i.toNat + (14 : RegIdx).val := by decide
theorem witness_MemoryOutOfRangeFaults : ((1 : Nibble).toNat ≠ 0 ∧
    4095 < (r0.setI 4096).i.toNat + (1 : Nibble).toNat - 1) ∧ 4095 < (r0.setI 4094).i.toNat + 2 ∧
    4095 < (r0.setI 4081).i.toNat + (15 : RegIdx).val := by decide
theorem witness_SpriteInvertsThePixelsItCovers : (0 : Nibble).toNat = 0 ∧
    (r0.setI 4081).i.toNat + (15 : Nibble).toNat - 1 ≤ 4095 := by decide
/-- A covered pixel that is on, and one that is off. -/
theorem witness_SpriteInvertsThePixelsItCovers_clauses :
    (spriteCovers (bytesAt 0x300 [0x01] (lit.setI 0x300)) 0 0 1 0 7 ∧
      (bytesAt 0x300 [0x01] (lit.setI 0x300)).pixel 0 7 = true) ∧
    spriteCovers (bytesAt 0x300 [0x01] (r0.setI 0x300)) 0 0 1 0 7 ∧
    ¬∃ r c, spriteCovers (bytesAt 0x300 [0x01] (r0.setI 0x300)) 0 0 1 r c ∧
      (bytesAt 0x300 [0x01] (r0.setI 0x300)).pixel r c = true := by
  refine ⟨⟨⟨0, by decide, 7, by decide, by decide, by decide, by decide⟩, by decide⟩,
    ⟨0, by decide, 7, by decide, by decide, by decide, by decide⟩, ?_⟩
  rintro ⟨r, c, ⟨k, hk, j, hj, hr, hc, _⟩, hp⟩
  obtain rfl : k = 0 := by omega
  obtain rfl : r = 0 := hr.symm
  have hc' : c = j := by rw [← hc, show (State.reg _ _).toNat = 0 from rfl]; omega
  subst hc'
  revert hp
  exact (show ∀ j < 8, (bytesAt 0x300 [0x01] (r0.setI 0x300)).pixel 0 j ≠ true by decide) c hj
theorem witness_DrawingTwiceRestoresTheDisplay : (0 : RegIdx) ≠ 15 ∧ (1 : RegIdx) ≠ 15 ∧
    (r0.setI 4081).i.toNat + (15 : Nibble).toNat - 1 ≤ 4095 := by decide
theorem witness_DrawingTwiceRestoresTheDisplay_clauses :
    (bytesAt 0x300 [0x01] (r0.setI 0x300)).pixel 0 7 = false ∧
    (after 0xD001 (bytesAt 0x300 [0x01] (r0.setI 0x300))).pixel 0 7 = true := by decide
theorem witness_KeySkips : ((put [(1, 0xFA)] r0).reg 1).toNat % 16 = (10 : Fin 16).val := by decide
theorem witness_KeyWait : ((holding 15 r0).key 15 = true ∧ ∀ j < (15 : Fin 16), (holding 15 r0).key j = false) ∧
    ∀ k, r0.key k = false := by decide
theorem witness_host_operations : (r0.setPending [.tick]).pending = .tick :: [] ∧
    (r0.setPending [.keyWrite (Vector.replicate 16 true)]).pending = .keyWrite (Vector.replicate 16 true) :: [] ∧
    (stopped.setPending [.reset]).pending = .reset :: [] ∧
    (stopped.setPending [.load (List.replicate 3585 0xAB)]).pending = .load (List.replicate 3585 0xAB) :: [] ∧
    (r0.setPending [.stateRead]).pending = .stateRead :: [] :=
  ⟨rfl, rfl, rfl, rfl, rfl⟩
/-- The last byte of an image that fills memory, and the first address past a short one. -/
theorem witness_LoadCopiesTheImage_clauses : 3583 < min (List.replicate 3585 (0xAB : Byte)).length 3584 ∧
    0x200 + min ([0x12, 0x00] : List Byte).length 3584 ≤ 0x202 := by
  rw [List.length_replicate]; decide
/-- The last byte of memory, in a window that runs past it. -/
theorem witness_StateReadShowsAndChangesNothing : 0 < 2 ∧ 0xFFF + 0 ≤ 4095 ∧ (r0.snapshot 0xFFF 2).window.length = 1 := by
  decide
theorem witness_TicksReachZero : (r0.setPending [.tick, .tick, .tick]).pending = List.replicate 3 .tick := by decide
theorem witness_SelfJumpIsLeftOnlyByResetOrLoad : (bytesAt 0xFFE [0x1F, 0xFE] (r0.setPc 0xFFE)).selfJump = true ∧
    (bytesAt 0xFFE [0x1F, 0xFE] (r0.setPc 0xFFE)).pending = [] ∧
    ∃ t, step (bytesAt 0xFFE [0x1F, 0xFE] (r0.setPc 0xFFE)) = .next t :=
  ⟨by decide, rfl, _, rfl⟩

end Sys2Proof.Tests
end

section
/-! The control flow family (spec 41_control_flow.md): jumps and skips. What writing PC leaves unchanged, what each
jump and skip executes to, and the statements of R91 and R93 to R97. -/

namespace Sys2Proof.Machine

open Sys2Proof

/-! ### Writing PC, and nothing else -/

/-- Frame of a write to PC: no named part of the state sees it. -/
theorem State.setPc_unchangedBut (s : State) (w : Word) (changed : List Part) :
    UnchangedBut changed s (s.setPc w) := by
  intro p _
  cases p with
  | params | index | delay | sound | fault => rfl
  | regs => exact s.setPc_reg w
  | stack => exact ⟨s.setPc_sp w, s.setPc_stackAt w⟩
  | keys => exact s.setPc_key w
  | display => exact s.setPc_pixel w
  | memory => exact s.setPc_byte w
  | inputs => exact ⟨s.setPc_rnd w, s.setPc_draws w, s.setPc_pending w⟩

theorem State.setPc_onlyPc (s : State) (w : Word) : OnlyPc s (s.setPc w) w :=
  ⟨s.setPc_pc w, s.setPc_unchangedBut w []⟩

/-! ### Skips: PC + 4 or PC + 2 (R14) -/

theorem State.skipIf_onlyPc (s : State) (c : Bool) :
    OnlyPc s (s.skipIf c) (if c = true then s.pc + 4 else s.pc + 2) :=
  s.setPc_onlyPc _

/-- Skip on equality, as SE has it. -/
theorem State.skipIf_beq_onlyPc (s : State) (a b : Byte) :
    OnlyPc s (s.skipIf (a == b)) (if a = b then s.pc + 4 else s.pc + 2) := by
  simpa only [beq_iff_eq] using s.skipIf_onlyPc (a == b)

/-- Skip on inequality, as SNE has it. -/
theorem State.skipIf_bne_onlyPc (s : State) (a b : Byte) :
    OnlyPc s (s.skipIf (a != b)) (if a = b then s.pc + 2 else s.pc + 4) := by
  simpa only [bne_iff_ne, ne_eq, ite_not] using s.skipIf_onlyPc (a != b)

/-! ### Jump targets -/

theorem extNnn_toNat (nnn : Addr12) : (extNnn nnn).toNat = nnn.toNat :=
  BitVec.toNat_setWidth_of_le (by decide)

theorem extByte_toNat (b : Byte) : (extByte b).toNat = b.toNat :=
  BitVec.toNat_setWidth_of_le (by decide)

/-- The sum of a 12-bit and an 8-bit number fits PC, so R93 neither reduces nor wraps it. -/
theorem extNnn_add_extByte_toNat (nnn : Addr12) (b : Byte) :
    (extNnn nnn + extByte b).toNat = nnn.toNat + b.toNat := by
  have hn := nnn.isLt
  have hb := b.isLt
  rw [BitVec.toNat_add, extNnn_toNat, extByte_toNat, Nat.mod_eq_of_lt (by omega)]

/-! ### What each jump and skip executes to -/

theorem exec_jp (nnn : Addr12) (s : State) : exec (.jp nnn) s = .next (s.setPc (extNnn nnn)) := rfl

theorem exec_jpV0 (nnn : Addr12) (s : State) :
    exec (.jpV0 nnn) s = .next (s.setPc (extNnn nnn + extByte (s.reg 0))) := rfl

theorem exec_seImm (x : RegIdx) (kk : Byte) (s : State) :
    exec (.seImm x kk) s = .next (s.skipIf (s.reg x == kk)) := rfl

theorem exec_sneImm (x : RegIdx) (kk : Byte) (s : State) :
    exec (.sneImm x kk) s = .next (s.skipIf (s.reg x != kk)) := rfl

theorem exec_seReg (x y : RegIdx) (s : State) :
    exec (.seReg x y) s = .next (s.skipIf (s.reg x == s.reg y)) := rfl

theorem exec_sneReg (x y : RegIdx) (s : State) :
    exec (.sneReg x y) s = .next (s.skipIf (s.reg x != s.reg y)) := rfl

/-! ### The statements -/

/-- Settles O23: both jumps are one write to PC, and the sum of JP V0,nnn fits in 16 bits. -/
theorem jumpsSetPc : Obligations.JumpsSetPc := by
  intro nnn s
  constructor
  · exact ⟨word_of_a 0x1 nnn (by decide), _, exec_jp nnn s, extNnn_toNat nnn, s.setPc_unchangedBut _ []⟩
  · exact ⟨word_of_a 0xB nnn (by decide), _, exec_jpV0 nnn s, extNnn_add_extByte_toNat nnn (s.reg 0),
      s.setPc_unchangedBut _ []⟩

/-- Settles O27: SE and SNE are a skip on the comparison of `Vx` with the immediate. -/
theorem immediateSkips : Obligations.ImmediateSkips := by
  intro x kk s
  constructor
  · exact ⟨word_of_xk 0x3 x kk (by decide), _, exec_seImm x kk s, s.skipIf_beq_onlyPc (s.reg x) kk⟩
  · exact ⟨word_of_xk 0x4 x kk (by decide), _, exec_sneImm x kk s, s.skipIf_bne_onlyPc (s.reg x) kk⟩

/-- Settles O28: SE and SNE are a skip on the comparison of `Vx` with `Vy`, for any two register numbers. -/
theorem registerSkips : Obligations.RegisterSkips := by
  intro x y s
  constructor
  · exact ⟨word_of_xy 0x5 x y 0 (by decide) (by decide), _, exec_seReg x y s,
      s.skipIf_beq_onlyPc (s.reg x) (s.reg y)⟩
  · exact ⟨word_of_xy 0x9 x y 0 (by decide) (by decide), _, exec_sneReg x y s,
      s.skipIf_bne_onlyPc (s.reg x) (s.reg y)⟩

end Sys2Proof.Machine
end

section
/-! The ALU family (spec 42_alu.md): moves, logic, ADD, SUB and SUBN. What writing a V register, or a result and its
flag, leaves unchanged; what each instruction executes to; and the statements of R105 to R112 and R114. -/

namespace Sys2Proof.Machine

open Sys2Proof

/-! ### Frames compose -/

theorem Part.same_trans {s t u : State} (p : Part) (hst : p.same s t) (htu : p.same t u) : p.same s u := by
  cases p with
  | params | index | delay | sound | fault => exact Eq.trans htu hst
  | regs | keys | memory => exact fun k => (htu k).trans (hst k)
  | display => exact fun r c => (htu r c).trans (hst r c)
  | stack =>
    obtain ⟨hsp, hat⟩ := hst
    obtain ⟨hsp', hat'⟩ := htu
    exact ⟨hsp'.trans hsp, fun k => (hat' k).trans (hat k)⟩
  | inputs =>
    obtain ⟨hrnd, hdraws, hpending⟩ := hst
    obtain ⟨hrnd', hdraws', hpending'⟩ := htu
    exact ⟨hrnd'.trans hrnd, hdraws'.trans hdraws, hpending'.trans hpending⟩

theorem UnchangedBut.trans {changed : List Part} {s t u : State} (hst : UnchangedBut changed s t)
    (htu : UnchangedBut changed t u) : UnchangedBut changed s u :=
  fun p hp => p.same_trans (hst p hp) (htu p hp)

/-! ### Writing one V register -/

/-- Frame of a write to a V register: the other parts of the state do not see it. -/
theorem State.setReg_unchangedBut (s : State) (x : RegIdx) (b : Byte) : UnchangedBut [.regs] s (s.setReg x b) := by
  intro p hp
  cases p with
  | regs => exact absurd (List.mem_singleton_self _) hp
  | params | index | delay | sound | fault => rfl
  | stack => exact ⟨s.setReg_sp x b, s.setReg_stackAt x b⟩
  | keys => exact s.setReg_key x b
  | display => exact s.setReg_pixel x b
  | memory => exact s.setReg_byte x b
  | inputs => exact ⟨s.setReg_rnd x b, s.setReg_draws x b, s.setReg_pending x b⟩

theorem State.setReg_advance_writesReg (s : State) (x : RegIdx) {b : Byte} {value : Nat} (hb : b.toNat = value) :
    WritesReg s (s.setReg x b).advance x value := by
  refine ⟨?_, rfl, fun r hr => ?_, (s.setReg_unchangedBut x b).trans (State.setPc_unchangedBut _ _ _)⟩
  · rw [State.advance_reg, State.reg_setReg_same, hb]
  · rw [State.advance_reg, s.reg_setReg_of_ne b hr]

/-! ### Writing a result, then its flag (R101) -/

/-- VF after an ALU write: the flag's byte, whatever the destination is. -/
theorem State.writeAlu_vf (s : State) (x : RegIdx) (out : AluOut) : (s.writeAlu x out).reg 15 = flagByte out.2 :=
  (s.reg_writeAlu x 15 out).trans (if_pos rfl)

theorem State.writeAlu_dest (s : State) {x : RegIdx} (out : AluOut) (hx : x ≠ 15) :
    (s.writeAlu x out).reg x = out.1 :=
  (s.reg_writeAlu x x out).trans ((if_neg hx).trans (if_pos rfl))

theorem State.writeAlu_reg_of_ne (s : State) {x r : RegIdx} (out : AluOut) (hx : r ≠ x) (hvf : r ≠ 15) :
    (s.writeAlu x out).reg r = s.reg r :=
  (s.reg_writeAlu x r out).trans ((if_neg hvf).trans (if_neg hx))

theorem State.writeAlu_unchangedBut (s : State) (x : RegIdx) (out : AluOut) :
    UnchangedBut [.regs] s (s.writeAlu x out) :=
  (s.setReg_unchangedBut x out.1).trans (State.setReg_unchangedBut _ vf (flagByte out.2))

theorem State.writeAlu_advance_writesRegAndFlag (s : State) (x : RegIdx) {out : AluOut} {value : Nat} {flag : Prop}
    (hvalue : out.1.toNat = value) (hflag : out.2 = true ↔ flag) :
    WritesRegAndFlag s (s.writeAlu x out).advance x value flag := by
  refine ⟨fun hf => ?_, fun hf => ?_, fun hx => ?_, rfl, fun r hr => ?_,
    (s.writeAlu_unchangedBut x out).trans (State.setPc_unchangedBut _ _ _)⟩
  · rw [State.advance_reg, s.writeAlu_vf, hflag.mpr hf]; rfl
  · rw [State.advance_reg, s.writeAlu_vf, Bool.eq_false_iff.mpr (mt hflag.mp hf)]; rfl
  · rw [State.advance_reg, s.writeAlu_dest out hx, hvalue]
  · obtain ⟨hx, hvf⟩ := not_or.mp hr
    rw [State.advance_reg, s.writeAlu_reg_of_ne out hx hvf]

/-! ### Results and flags -/

theorem aluAdd_result_toNat (a b : Byte) : (aluAdd a b).1.toNat = (a.toNat + b.toNat) % 256 :=
  BitVec.toNat_ofNat _ _

theorem aluAdd_flag_iff (a b : Byte) : (aluAdd a b).2 = true ↔ 255 < a.toNat + b.toNat :=
  decide_eq_true_iff

theorem aluSub_result_toNat (a b : Byte) : (aluSub a b).1.toNat = (a.toNat + 256 - b.toNat) % 256 :=
  BitVec.toNat_ofNat _ _

theorem aluSub_flag_iff (a b : Byte) : (aluSub a b).2 = true ↔ b.toNat ≤ a.toNat :=
  decide_eq_true_iff

/-! ### What each instruction executes to -/

theorem exec_ldImm (x : RegIdx) (kk : Byte) (s : State) : exec (.ldImm x kk) s = .next (s.setReg x kk).advance := rfl

theorem exec_addImm (x : RegIdx) (kk : Byte) (s : State) :
    exec (.addImm x kk) s = .next (s.setReg x (s.reg x + kk)).advance := rfl

theorem exec_ldReg (x y : RegIdx) (s : State) : exec (.ldReg x y) s = .next (s.setReg x (s.reg y)).advance := rfl

theorem exec_orReg (x y : RegIdx) (s : State) :
    exec (.orReg x y) s = .next (s.setReg x (s.reg x ||| s.reg y)).advance := rfl

theorem exec_andReg (x y : RegIdx) (s : State) :
    exec (.andReg x y) s = .next (s.setReg x (s.reg x &&& s.reg y)).advance := rfl

theorem exec_xorReg (x y : RegIdx) (s : State) :
    exec (.xorReg x y) s = .next (s.setReg x (s.reg x ^^^ s.reg y)).advance := rfl

theorem exec_addReg (x y : RegIdx) (s : State) :
    exec (.addReg x y) s = .next (s.writeAlu x (aluAdd (s.reg x) (s.reg y))).advance := rfl

theorem exec_subReg (x y : RegIdx) (s : State) :
    exec (.subReg x y) s = .next (s.writeAlu x (aluSub (s.reg x) (s.reg y))).advance := rfl

theorem exec_subnReg (x y : RegIdx) (s : State) :
    exec (.subnReg x y) s = .next (s.writeAlu x (aluSub (s.reg y) (s.reg x))).advance := rfl

/-! ### The statements -/

/-- Settles O29: each is one write to `Vx`, and the sum of ADD Vx,kk is the addition of bytes. -/
theorem movesAndAddImmediate : Obligations.MovesAndAddImmediate := by
  intro x s
  refine ⟨fun kk => ?_, fun kk => ?_, fun y => ?_⟩
  · exact ⟨word_of_xk 0x6 x kk (by decide), _, exec_ldImm x kk s, s.setReg_advance_writesReg x rfl⟩
  · exact ⟨word_of_xk 0x7 x kk (by decide), _, exec_addImm x kk s,
      s.setReg_advance_writesReg x (BitVec.toNat_add _ _)⟩
  · exact ⟨word_of_xy 0x8 x y 0x0 (by decide) (by decide), _, exec_ldReg x y s, s.setReg_advance_writesReg x rfl⟩

/-- Settles O30: each is one write to `Vx` of the bitwise operation on bytes. -/
theorem logicOperations : Obligations.LogicOperations := by
  intro x y s
  refine ⟨?_, ?_, ?_⟩
  · exact ⟨word_of_xy 0x8 x y 0x1 (by decide) (by decide), _, exec_orReg x y s,
      s.setReg_advance_writesReg x (BitVec.toNat_or _ _)⟩
  · exact ⟨word_of_xy 0x8 x y 0x2 (by decide) (by decide), _, exec_andReg x y s,
      s.setReg_advance_writesReg x (BitVec.toNat_and _ _)⟩
  · exact ⟨word_of_xy 0x8 x y 0x3 (by decide) (by decide), _, exec_xorReg x y s,
      s.setReg_advance_writesReg x (BitVec.toNat_xor _ _)⟩

/-- Settles O31: an ALU write of the sum and its carry, both computed from the registers before either write. -/
theorem addSetsCarry : Obligations.AddSetsCarry := by
  intro x y s
  exact ⟨word_of_xy 0x8 x y 0x4 (by decide) (by decide), _, exec_addReg x y s,
    s.writeAlu_advance_writesRegAndFlag x (aluAdd_result_toNat _ _) (aluAdd_flag_iff _ _)⟩

/-- Settles O32: SUB and SUBN are one ALU write of the difference and NOT borrow, with the operands exchanged. -/
theorem subtractionsSetNotBorrow : Obligations.SubtractionsSetNotBorrow := by
  intro x y s
  constructor
  · exact ⟨word_of_xy 0x8 x y 0x5 (by decide) (by decide), _, exec_subReg x y s,
      s.writeAlu_advance_writesRegAndFlag x (aluSub_result_toNat _ _) (aluSub_flag_iff _ _)⟩
  · exact ⟨word_of_xy 0x8 x y 0x7 (by decide) (by decide), _, exec_subnReg x y s,
      s.writeAlu_advance_writesRegAndFlag x (aluSub_result_toNat _ _) (aluSub_flag_iff _ _)⟩

end Sys2Proof.Machine
end

section
/-! The index and memory family (spec 43_index_memory.md): LD I and ADD I. What writing I leaves unchanged, what both
instructions execute to, and the statement of R120 and R121. -/

namespace Sys2Proof.Machine

open Sys2Proof

/-! ### Writing I -/

/-- Frame of a write to I: the other parts of the state do not see it. -/
theorem State.setI_unchangedBut (s : State) (w : Word) : UnchangedBut [.index] s (s.setI w) := by
  intro p hp
  cases p with
  | index => exact absurd (List.mem_singleton_self _) hp
  | params | delay | sound | fault => rfl
  | regs => exact s.setI_reg w
  | stack => exact ⟨s.setI_sp w, s.setI_stackAt w⟩
  | keys => exact s.setI_key w
  | display => exact s.setI_pixel w
  | memory => exact s.setI_byte w
  | inputs => exact ⟨s.setI_rnd w, s.setI_draws w, s.setI_pending w⟩

theorem State.setI_advance_unchangedBut (s : State) (w : Word) : UnchangedBut [.index] s (s.setI w).advance :=
  (s.setI_unchangedBut w).trans (State.setPc_unchangedBut _ _ _)

/-! ### The 16-bit sum -/

theorem add_extByte_toNat (w : Word) (b : Byte) : (w + extByte b).toNat = (w.toNat + b.toNat) % 65536 := by
  rw [BitVec.toNat_add, extByte_toNat]

/-! ### What each instruction executes to -/

theorem exec_ldI (nnn : Addr12) (s : State) : exec (.ldI nnn) s = .next (s.setI (extNnn nnn)).advance := rfl

theorem exec_addI (x : RegIdx) (s : State) :
    exec (.addI x) s = .next (s.setI (s.i + extByte (s.reg x))).advance := rfl

/-! ### The statement -/

/-- Settles O34: each is one write to I, and the sum of ADD I,Vx is the addition of 16-bit words. -/
theorem indexLoadAndAdd : Obligations.IndexLoadAndAdd := by
  intro s
  constructor
  · intro nnn
    exact ⟨word_of_a 0xA nnn (by decide), _, exec_ldI nnn s, extNnn_toNat nnn, rfl, s.setI_advance_unchangedBut _⟩
  · intro x
    exact ⟨word_of_x 0xF x 0x1E (by decide) (by decide), _, exec_addI x s, add_extByte_toNat s.i (s.reg x), rfl,
      s.setI_advance_unchangedBut _⟩

end Sys2Proof.Machine
end

section
/-! The display family (spec 44_display.md): CLS. What writing the framebuffer leaves unchanged, what CLS executes to,
and the statement of R130. -/

namespace Sys2Proof.Machine

open Sys2Proof

/-! ### Writing the framebuffer -/

/-- Frame of a write to the framebuffer: the other parts of the state do not see it. -/
theorem State.setFb_unchangedBut (s : State) (fb : Framebuffer s.cfg.dispH) :
    UnchangedBut [.display] s (s.setFb fb) := by
  intro p hp
  cases p with
  | display => exact absurd (List.mem_singleton_self _) hp
  | params | index | delay | sound | fault => rfl
  | regs => exact s.setFb_reg fb
  | stack => exact ⟨s.setFb_sp fb, s.setFb_stackAt fb⟩
  | keys => exact s.setFb_key fb
  | memory => exact s.setFb_byte fb
  | inputs => exact ⟨s.setFb_rnd fb, s.setFb_draws fb, s.setFb_pending fb⟩

theorem State.setFb_advance_unchangedBut (s : State) (fb : Framebuffer s.cfg.dispH) :
    UnchangedBut [.display] s (s.setFb fb).advance :=
  (s.setFb_unchangedBut fb).trans (State.setPc_unchangedBut _ _ _)

/-! ### What CLS executes to -/

theorem exec_cls (s : State) :
    exec .cls s = .next (s.setFb (Grid.clear Config.dispW s.cfg.dispH.rows)).advance := rfl

/-! ### The statement -/

/-- Settles O42: CLS is one write of the blank grid to the framebuffer, of whatever height it has. -/
theorem clearTurnsEveryPixelOff : Obligations.ClearTurnsEveryPixelOff := by
  refine ⟨by decide, fun s => ⟨_, exec_cls s, fun r c => ?_, rfl, s.setFb_advance_unchangedBut _⟩⟩
  rw [State.advance_pixel, State.setFb_pixel, Grid.pixel_clear]

end Sys2Proof.Machine
end

section
/-! The timer family (spec 45_timer_key_random.md): the timer transfers. What writing DT or ST leaves unchanged, when
SOUND_ON is 1, what each transfer executes to, and the statement of R141 to R143. -/

namespace Sys2Proof.Machine

open Sys2Proof

/-! ### Writing DT -/

/-- Frame of a write to DT: the other parts of the state do not see it. -/
theorem State.setDt_unchangedBut (s : State) (b : Byte) : UnchangedBut [.delay] s (s.setDt b) := by
  intro p hp
  cases p with
  | delay => exact absurd (List.mem_singleton_self _) hp
  | params | index | sound | fault => rfl
  | regs => exact s.setDt_reg b
  | stack => exact ⟨s.setDt_sp b, s.setDt_stackAt b⟩
  | keys => exact s.setDt_key b
  | display => exact s.setDt_pixel b
  | memory => exact s.setDt_byte b
  | inputs => exact ⟨s.setDt_rnd b, s.setDt_draws b, s.setDt_pending b⟩

theorem State.setDt_advance_unchangedBut (s : State) (b : Byte) : UnchangedBut [.delay] s (s.setDt b).advance :=
  (s.setDt_unchangedBut b).trans (State.setPc_unchangedBut _ _ _)

/-! ### Writing ST, and SOUND_ON (R19) -/

/-- Frame of a write to ST: the other parts of the state do not see it. -/
theorem State.setSt_unchangedBut (s : State) (b : Byte) : UnchangedBut [.sound] s (s.setSt b) := by
  intro p hp
  cases p with
  | sound => exact absurd (List.mem_singleton_self _) hp
  | params | index | delay | fault => rfl
  | regs => exact s.setSt_reg b
  | stack => exact ⟨s.setSt_sp b, s.setSt_stackAt b⟩
  | keys => exact s.setSt_key b
  | display => exact s.setSt_pixel b
  | memory => exact s.setSt_byte b
  | inputs => exact ⟨s.setSt_rnd b, s.setSt_draws b, s.setSt_pending b⟩

theorem State.setSt_advance_unchangedBut (s : State) (b : Byte) : UnchangedBut [.sound] s (s.setSt b).advance :=
  (s.setSt_unchangedBut b).trans (State.setPc_unchangedBut _ _ _)

theorem State.soundOn_iff (s : State) : s.soundOn = true ↔ s.st ≠ 0 := bne_iff_ne

/-! ### What each transfer executes to -/

theorem exec_ldVxDt (x : RegIdx) (s : State) : exec (.ldVxDt x) s = .next (s.setReg x s.dt).advance := rfl

theorem exec_ldDtVx (x : RegIdx) (s : State) : exec (.ldDtVx x) s = .next (s.setDt (s.reg x)).advance := rfl

theorem exec_ldStVx (x : RegIdx) (s : State) : exec (.ldStVx x) s = .next (s.setSt (s.reg x)).advance := rfl

/-! ### The statement -/

/-- Settles O45: each transfer is one write, to Vx, DT or ST, and SOUND_ON is read off the ST just written. -/
theorem timerTransfers : Obligations.TimerTransfers := by
  intro x s
  refine ⟨?_, ?_, ?_⟩
  · exact ⟨word_of_x 0xF x 0x07 (by decide) (by decide), _, exec_ldVxDt x s, s.setReg_advance_writesReg x rfl⟩
  · exact ⟨word_of_x 0xF x 0x15 (by decide) (by decide), _, exec_ldDtVx x s, rfl, rfl, s.setDt_advance_unchangedBut _⟩
  · exact ⟨word_of_x 0xF x 0x18 (by decide) (by decide), _, exec_ldStVx x s, rfl, State.soundOn_iff _, rfl,
      s.setSt_advance_unchangedBut _⟩

end Sys2Proof.Machine
end

section
/-! Encoding (spec 30_encoding.md): words and rows as numbers, rows of the opcode map that no word shares, and the
statements of R61 to R72. -/

namespace Sys2Proof.Machine

open Sys2Proof

/-! ### The word of an instruction as a number -/

/-- The word of an instruction as the opcode map writes it: R61's fields under R66's fixed digits. -/
def wordNumber : Instr → Nat
  | .cls => 0x00E0
  | .ret => 0x00EE
  | .jp nnn => wordA 0x1 nnn
  | .call nnn => wordA 0x2 nnn
  | .seImm x kk => wordXK 0x3 x kk
  | .sneImm x kk => wordXK 0x4 x kk
  | .seReg x y => wordXY 0x5 x y 0x0
  | .ldImm x kk => wordXK 0x6 x kk
  | .addImm x kk => wordXK 0x7 x kk
  | .ldReg x y => wordXY 0x8 x y 0x0
  | .orReg x y => wordXY 0x8 x y 0x1
  | .andReg x y => wordXY 0x8 x y 0x2
  | .xorReg x y => wordXY 0x8 x y 0x3
  | .addReg x y => wordXY 0x8 x y 0x4
  | .subReg x y => wordXY 0x8 x y 0x5
  | .shr x y => wordXY 0x8 x y 0x6
  | .subnReg x y => wordXY 0x8 x y 0x7
  | .shl x y => wordXY 0x8 x y 0xE
  | .sneReg x y => wordXY 0x9 x y 0x0
  | .ldI nnn => wordA 0xA nnn
  | .jpV0 nnn => wordA 0xB nnn
  | .rnd x kk => wordXK 0xC x kk
  | .drw x y n => wordXY 0xD x y n.toNat
  | .skp x => wordX 0xE x 0x9E
  | .sknp x => wordX 0xE x 0xA1
  | .ldVxDt x => wordX 0xF x 0x07
  | .ldVxK x => wordX 0xF x 0x0A
  | .ldDtVx x => wordX 0xF x 0x15
  | .ldStVx x => wordX 0xF x 0x18
  | .addI x => wordX 0xF x 0x1E
  | .ldF x => wordX 0xF x 0x29
  | .ldB x => wordX 0xF x 0x33
  | .ldMemVx x => wordX 0xF x 0x55
  | .ldVxMem x => wordX 0xF x 0x65

theorem toNat_encode : ∀ i : Instr, (encode i).toNat = wordNumber i
  | .cls => rfl
  | .ret => rfl
  | .jp nnn => word_of_a 0x1 nnn (by decide)
  | .call nnn => word_of_a 0x2 nnn (by decide)
  | .seImm x kk => word_of_xk 0x3 x kk (by decide)
  | .sneImm x kk => word_of_xk 0x4 x kk (by decide)
  | .seReg x y => word_of_xy 0x5 x y 0x0 (by decide) (by decide)
  | .ldImm x kk => word_of_xk 0x6 x kk (by decide)
  | .addImm x kk => word_of_xk 0x7 x kk (by decide)
  | .ldReg x y => word_of_xy 0x8 x y 0x0 (by decide) (by decide)
  | .orReg x y => word_of_xy 0x8 x y 0x1 (by decide) (by decide)
  | .andReg x y => word_of_xy 0x8 x y 0x2 (by decide) (by decide)
  | .xorReg x y => word_of_xy 0x8 x y 0x3 (by decide) (by decide)
  | .addReg x y => word_of_xy 0x8 x y 0x4 (by decide) (by decide)
  | .subReg x y => word_of_xy 0x8 x y 0x5 (by decide) (by decide)
  | .shr x y => word_of_xy 0x8 x y 0x6 (by decide) (by decide)
  | .subnReg x y => word_of_xy 0x8 x y 0x7 (by decide) (by decide)
  | .shl x y => word_of_xy 0x8 x y 0xE (by decide) (by decide)
  | .sneReg x y => word_of_xy 0x9 x y 0x0 (by decide) (by decide)
  | .ldI nnn => word_of_a 0xA nnn (by decide)
  | .jpV0 nnn => word_of_a 0xB nnn (by decide)
  | .rnd x kk => word_of_xk 0xC x kk (by decide)
  | .drw x y n => word_of_xyn 0xD x y n (by decide)
  | .skp x => word_of_x 0xE x 0x9E (by decide) (by decide)
  | .sknp x => word_of_x 0xE x 0xA1 (by decide) (by decide)
  | .ldVxDt x => word_of_x 0xF x 0x07 (by decide) (by decide)
  | .ldVxK x => word_of_x 0xF x 0x0A (by decide) (by decide)
  | .ldDtVx x => word_of_x 0xF x 0x15 (by decide) (by decide)
  | .ldStVx x => word_of_x 0xF x 0x18 (by decide) (by decide)
  | .addI x => word_of_x 0xF x 0x1E (by decide) (by decide)
  | .ldF x => word_of_x 0xF x 0x29 (by decide) (by decide)
  | .ldB x => word_of_x 0xF x 0x33 (by decide) (by decide)
  | .ldMemVx x => word_of_x 0xF x 0x55 (by decide) (by decide)
  | .ldVxMem x => word_of_x 0xF x 0x65 (by decide) (by decide)

/-- The fields cut out of an instruction's word are its operands, so the instruction is among the word's candidates. -/
theorem mem_candidates_of_toNat {op : Word} {i : Instr} (h : op.toNat = wordNumber i) : i ∈ candidates op := by
  have hX : ∀ x : RegIdx, op.toNat / 256 % 16 = x.val → fieldX op = x :=
    fun x e => Fin.ext ((fieldX_val op).trans e)
  have hY : ∀ y : RegIdx, op.toNat / 16 % 16 = y.val → fieldY op = y :=
    fun y e => Fin.ext ((fieldY_val op).trans e)
  have hKK : ∀ kk : Byte, op.toNat % 256 = kk.toNat → fieldKK op = kk :=
    fun kk e => BitVec.eq_of_toNat_eq ((fieldKK_toNat op).trans e)
  have hN : ∀ n : Nibble, op.toNat % 16 = n.toNat → fieldN op = n :=
    fun n e => BitVec.eq_of_toNat_eq ((fieldN_toNat op).trans e)
  have hA : ∀ n : Addr12, op.toNat % 4096 = n.toNat → fieldNNN op = n :=
    fun n e => BitVec.eq_of_toNat_eq ((fieldNNN_toNat op).trans e)
  cases i with
  | cls | ret => simp [candidates]
  | jp nnn | call nnn | ldI nnn | jpV0 nnn =>
    rw [wordNumber, wordA] at h
    have := nnn.isLt
    simp [candidates, hA nnn (by omega)]
  | seImm x kk | sneImm x kk | ldImm x kk | addImm x kk | rnd x kk =>
    rw [wordNumber, wordXK] at h
    have := kk.isLt
    have := x.isLt
    simp [candidates, hX x (by omega), hKK kk (by omega)]
  | drw x y n =>
    rw [wordNumber, wordXY] at h
    have := n.isLt
    simp [candidates, hX x (by omega), hY y (by omega), hN n (by omega)]
  | seReg x y | sneReg x y | ldReg x y | orReg x y | andReg x y | xorReg x y | addReg x y | subReg x y | shr x y
  | subnReg x y | shl x y =>
    rw [wordNumber, wordXY] at h
    simp [candidates, hX x (by omega), hY y (by omega)]
  | skp x | sknp x | ldVxDt x | ldVxK x | ldDtVx x | ldStVx x | addI x | ldF x | ldB x | ldMemVx x | ldVxMem x =>
    rw [wordNumber, wordX] at h
    simp [candidates, hX x (by omega)]

/-! ### A row's fixed bits as fixed digits (R62, R64) -/

/-- Below the leading digit, which every format fixes, a format fixes this many bits, the lowest ones. -/
def lowBits : Format → Nat
  | .z => 12
  | .a | .xk | .xyn => 0
  | .xy => 4
  | .x => 8

/-- The digits that a format fixes are the same in `w` and `v`. -/
def DigitsAgree (f : Format) (w v : Nat) : Prop := w / 0x1000 = v / 0x1000 ∧ w % 2 ^ lowBits f = v % 2 ^ lowBits f

theorem lowBits_le (f : Format) : lowBits f ≤ 12 := by cases f <;> decide

theorem mask_eq_or (f : Format) : f.mask = 0xF000#16 ||| BitVec.ofNat 16 (2 ^ lowBits f - 1) := by cases f <;> rfl

theorem mod_lowBits_lt (f : Format) (w : Nat) : w % 2 ^ lowBits f < 2 ^ 12 :=
  (Nat.mod_lt _ (by positivity)).trans_le (Nat.pow_le_pow_right (by decide) (lowBits_le f))

theorem toNat_and_leading (op : Word) : (op &&& 0xF000#16).toNat = 2 ^ 12 * (op.toNat / 0x1000) := by
  have e : op &&& 0xF000#16 = op >>> 12 <<< 12 := by
    ext j hj
    interval_cases j <;> simp
  have hop := op.isLt
  rw [e, BitVec.toNat_shiftLeft, BitVec.toNat_ushiftRight, Nat.shiftRight_eq_div_pow, Nat.shiftLeft_eq]
  omega

theorem toNat_and_low (op : Word) {k : Nat} (hk : k ≤ 12) :
    (op &&& BitVec.ofNat 16 (2 ^ k - 1)).toNat = op.toNat % 2 ^ k := by
  have hm := Nat.pow_le_pow_right (show 0 < 2 by decide) hk
  rw [BitVec.toNat_and, BitVec.toNat_ofNat, Nat.mod_eq_of_lt (by omega), Nat.and_two_pow_sub_one_eq_mod]

theorem toNat_and_mask (f : Format) (op : Word) :
    (op &&& f.mask).toNat = 2 ^ 12 * (op.toNat / 0x1000) + op.toNat % 2 ^ lowBits f := by
  rw [mask_eq_or, BitVec.and_or_distrib_left, BitVec.toNat_or, toNat_and_leading, toNat_and_low op (lowBits_le f),
    or_low 12 _ _ (mod_lowBits_lt f _)]

theorem and_mask_eq_and_mask_iff (f : Format) (op v : Word) :
    op &&& f.mask = v &&& f.mask ↔ DigitsAgree f op.toNat v.toNat := by
  have hop := mod_lowBits_lt f op.toNat
  have hv := mod_lowBits_lt f v.toNat
  rw [← BitVec.toNat_inj, toNat_and_mask, toNat_and_mask, DigitsAgree]
  omega

/-- The word of an instruction stands in the instruction's own row. -/
theorem encode_in_own_row : ∀ i : Instr, Laws.OwnRow.Statement i
  | .cls => Laws.OwnRow.cls
  | .ret => Laws.OwnRow.ret
  | .jp nnn => Laws.OwnRow.jp nnn
  | .call nnn => Laws.OwnRow.call nnn
  | .seImm x kk => Laws.OwnRow.seImm x kk
  | .sneImm x kk => Laws.OwnRow.sneImm x kk
  | .seReg x y => Laws.OwnRow.seReg x y
  | .ldImm x kk => Laws.OwnRow.ldImm x kk
  | .addImm x kk => Laws.OwnRow.addImm x kk
  | .ldReg x y => Laws.OwnRow.ldReg x y
  | .orReg x y => Laws.OwnRow.orReg x y
  | .andReg x y => Laws.OwnRow.andReg x y
  | .xorReg x y => Laws.OwnRow.xorReg x y
  | .addReg x y => Laws.OwnRow.addReg x y
  | .subReg x y => Laws.OwnRow.subReg x y
  | .shr x y => Laws.OwnRow.shr x y
  | .subnReg x y => Laws.OwnRow.subnReg x y
  | .shl x y => Laws.OwnRow.shl x y
  | .sneReg x y => Laws.OwnRow.sneReg x y
  | .ldI nnn => Laws.OwnRow.ldI nnn
  | .jpV0 nnn => Laws.OwnRow.jpV0 nnn
  | .rnd x kk => Laws.OwnRow.rnd x kk
  | .drw x y n => Laws.OwnRow.drw x y n
  | .skp x => Laws.OwnRow.skp x
  | .sknp x => Laws.OwnRow.sknp x
  | .ldVxDt x => Laws.OwnRow.ldVxDt x
  | .ldVxK x => Laws.OwnRow.ldVxK x
  | .ldDtVx x => Laws.OwnRow.ldDtVx x
  | .ldStVx x => Laws.OwnRow.ldStVx x
  | .addI x => Laws.OwnRow.addI x
  | .ldF x => Laws.OwnRow.ldF x
  | .ldB x => Laws.OwnRow.ldB x
  | .ldMemVx x => Laws.OwnRow.ldMemVx x
  | .ldVxMem x => Laws.OwnRow.ldVxMem x

theorem row_value_and_mask (i : Instr) : i.row.value &&& i.row.format.mask = i.row.value := by
  have h := encode_in_own_row i
  rw [Laws.OwnRow.Statement] at h
  rw [← h, BitVec.and_assoc, BitVec.and_self]

/-- Matching a row (R64) is agreeing with it in the fixed digits. -/
theorem row_matches_iff (i : Instr) (op : Word) :
    i.row.matches op = true ↔ DigitsAgree i.row.format op.toNat i.row.value.toNat := by
  rw [OpcodeRow.matches, beq_iff_eq, ← and_mask_eq_and_mask_iff, row_value_and_mask]

theorem matches_iff (r : OpcodeRow) (op : Word) : r.matches op = true ↔ op &&& r.format.mask = r.value := beq_iff_eq

/-! ### The rows are disjoint (R64) -/

/-- Two rows that no word matches both of: they differ in a bit that both formats fix. -/
def rowsApart (r r' : OpcodeRow) : Bool := r.value &&& r'.format.mask != r'.value &&& r.format.mask

theorem rows_pairwise_apart : ((candidates 0).map Instr.row).Pairwise (fun r r' => rowsApart r r' = true) := by decide

theorem candidates_pairwise_apart (op : Word) :
    (candidates op).Pairwise (fun i j => rowsApart i.row j.row = true) :=
  List.pairwise_map.mp (show ((candidates op).map Instr.row).Pairwise _ from rows_pairwise_apart)

theorem not_both_match {op : Word} {r r' : OpcodeRow} (h : rowsApart r r' = true) (hr : r.matches op = true)
    (hr' : r'.matches op = true) : False := by
  rw [matches_iff] at hr hr'
  rw [rowsApart, bne_iff_ne, ← hr, ← hr', BitVec.and_assoc, BitVec.and_assoc, BitVec.and_comm r.format.mask] at h
  exact h rfl

/-- Settles O6: two candidates that are not the same instruction stand in rows that are apart. -/
theorem noWordMatchesTwoRows : Obligations.NoWordMatchesTwoRows := by
  intro op i j hi hj mi mj
  by_contra hne
  have : Std.Symm fun i j : Instr => rowsApart i.row j.row = true :=
    ⟨fun i j h => (bne_comm (a := j.row.value &&& _)).trans h⟩
  exact not_both_match ((candidates_pairwise_apart op).forall hi hj hne) mi mj

/-! ### Decoding and encoding are inverse -/

theorem encode_matches_own_row (i : Instr) : i.row.matches (encode i) = true :=
  (matches_iff _ _).mpr (encode_in_own_row i)

theorem decode_of_candidate {op : Word} {i : Instr} (hi : i ∈ candidates op) (hm : i.row.matches op = true) :
    decode op = some i := by
  cases hd : decode op with
  | none => exact absurd ((matches_iff _ _).mp hm) (decode_eq_none.mp hd i hi)
  | some j =>
    obtain ⟨hj, hmj⟩ := decode_eq_some hd
    rw [noWordMatchesTwoRows op i j hi hj hm ((matches_iff _ _).mpr hmj)]

/-- Settles O3: the instruction is among its word's candidates, the word is in its row, and no other row matches it. -/
theorem decodeOfEncodeIsTheInstruction : Obligations.DecodeOfEncodeIsTheInstruction := fun i =>
  decode_of_candidate (mem_candidates_of_toNat (toNat_encode i)) (encode_matches_own_row i)

/-- The digits of a word are the fixed ones of the row it matches and the fields cut out of it: 34 sums of digits. -/
theorem toNat_of_matches {op : Word} {i : Instr} (hi : i ∈ candidates op) (hm : i.row.matches op = true) :
    op.toNat = wordNumber i := by
  have hop := op.isLt
  rw [row_matches_iff] at hm
  revert i
  simp only [candidates, List.forall_mem_cons, List.not_mem_nil, false_implies, implies_true, and_true, DigitsAgree,
    Instr.row, BitVec.reduceToNat, lowBits, wordNumber, wordA, wordXK, wordXY, wordX, fieldX_val, fieldY_val,
    fieldKK_toNat, fieldN_toNat, fieldNNN_toNat]
  and_intros <;> omega

/-- Settles O4: both words are the same sum of digits. -/
theorem encodeOfDecodeIsTheWord : Obligations.EncodeOfDecodeIsTheWord := fun op i h => by
  obtain ⟨hi, hm⟩ := decode_eq_some h
  exact BitVec.eq_of_toNat_eq ((toNat_encode i).trans (toNat_of_matches hi ((matches_iff _ _).mpr hm)).symm)

/-! ### The words of no row (R70) -/

theorem decode_eq_none_iff (op : Word) :
    decode op = none ↔ ∀ i ∈ candidates op, ¬DigitsAgree i.row.format op.toNat i.row.value.toNat := by
  simp only [decode, List.find?_eq_none, row_matches_iff]

theorem beq_eq_decide_toNat (op v : Word) : (op == v) = decide (op.toNat = v.toNat) := by
  rw [Bool.eq_iff_iff, beq_iff_eq, decide_eq_true_iff, BitVec.toNat_inj]

/-- Settles O5, for each leading digit: the rows of that digit against R70's line for it. -/
theorem unsupportedWordsAreExactlyTheListed : Obligations.UnsupportedWordsAreExactlyTheListed := by
  intro op
  have hop := op.isLt
  have hdigit : op.toNat / 0x1000 < 16 := by omega
  simp only [decode_eq_none_iff, candidates, List.forall_mem_cons, List.not_mem_nil, DigitsAgree, Instr.row, lowBits,
    WellFormed.word, WellFormed.group0, WellFormed.group59, WellFormed.group8, WellFormed.groupE, WellFormed.groupF,
    beq_eq_decide_toNat]
  interval_cases hd : op.toNat / 0x1000 <;> simp <;> omega

/-- Settles O2: the decoder on seventeen literal words. -/
theorem sampleWordsDecodeAsTheMapSays : Obligations.SampleWordsDecodeAsTheMapSays := by
  unfold Obligations.SampleWordsDecodeAsTheMapSays
  decide

end Sys2Proof.Machine
end

section
/-! The frames of the remaining writes: what writing the stack, the V registers at once, memory, the keypad latch, FAULT
and the model's input fields leaves unchanged. -/

namespace Sys2Proof.Machine

open Sys2Proof

theorem Part.same_refl (s : State) (p : Part) : p.same s s := by
  cases p with
  | params | index | delay | sound | fault => rfl
  | regs | keys | memory => exact fun _ => rfl
  | display => exact fun _ _ => rfl
  | stack => exact ⟨rfl, fun _ => rfl⟩
  | inputs => exact ⟨rfl, rfl, rfl⟩

theorem UnchangedBut.refl (changed : List Part) (s : State) : UnchangedBut changed s s := fun p _ => p.same_refl s

theorem UnchangedBut.mono {few many : List Part} {s t : State} (h : UnchangedBut few s t) (hs : few ⊆ many) :
    UnchangedBut many s t := fun p hp => h p (mt (@hs p) hp)

theorem State.setStack_unchangedBut (s : State) (k : Vector Word Config.stackDepth) (p : Fin (Config.stackDepth + 1)) :
    UnchangedBut [.stack] s (s.setStack k p) := by
  intro q hq
  cases q with
  | stack => exact absurd (List.mem_singleton_self _) hq
  | params | index | delay | sound | fault => rfl
  | regs => exact s.setStack_reg k p
  | keys => exact s.setStack_key k p
  | display => exact s.setStack_pixel k p
  | memory => exact s.setStack_byte k p
  | inputs => exact ⟨s.setStack_rnd k p, s.setStack_draws k p, s.setStack_pending k p⟩

theorem State.setRegs_unchangedBut (s : State) (v : Vector Byte Config.numRegs) :
    UnchangedBut [.regs] s (s.setRegs v) := by
  intro p hp
  cases p with
  | regs => exact absurd (List.mem_singleton_self _) hp
  | params | index | delay | sound | fault => rfl
  | stack => exact ⟨s.setRegs_sp v, s.setRegs_stackAt v⟩
  | keys => exact s.setRegs_key v
  | display => exact s.setRegs_pixel v
  | memory => exact s.setRegs_byte v
  | inputs => exact ⟨s.setRegs_rnd v, s.setRegs_draws v, s.setRegs_pending v⟩

theorem State.setMem_unchangedBut (s : State) (m : Memory) : UnchangedBut [.memory] s (s.setMem m) := by
  intro p hp
  cases p with
  | memory => exact absurd (List.mem_singleton_self _) hp
  | params | index | delay | sound | fault => rfl
  | regs => exact s.setMem_reg m
  | stack => exact ⟨s.setMem_sp m, s.setMem_stackAt m⟩
  | keys => exact s.setMem_key m
  | display => exact s.setMem_pixel m
  | inputs => exact ⟨s.setMem_rnd m, s.setMem_draws m, s.setMem_pending m⟩

theorem State.setKeys_unchangedBut (s : State) (k : Vector Bool Config.numKeys) :
    UnchangedBut [.keys] s (s.setKeys k) := by
  intro p hp
  cases p with
  | keys => exact absurd (List.mem_singleton_self _) hp
  | params | index | delay | sound | fault => rfl
  | regs => exact s.setKeys_reg k
  | stack => exact ⟨s.setKeys_sp k, s.setKeys_stackAt k⟩
  | display => exact s.setKeys_pixel k
  | memory => exact s.setKeys_byte k
  | inputs => exact ⟨s.setKeys_rnd k, s.setKeys_draws k, s.setKeys_pending k⟩

theorem State.setFault_unchangedBut (s : State) (f : FaultRecord) : UnchangedBut [.fault] s (s.setFault f) := by
  intro p hp
  cases p with
  | fault => exact absurd (List.mem_singleton_self _) hp
  | params | index | delay | sound => rfl
  | regs => exact s.setFault_reg f
  | stack => exact ⟨s.setFault_sp f, s.setFault_stackAt f⟩
  | keys => exact s.setFault_key f
  | display => exact s.setFault_pixel f
  | memory => exact s.setFault_byte f
  | inputs => exact ⟨s.setFault_rnd f, s.setFault_draws f, s.setFault_pending f⟩

/-- The model's input fields, at any values: no piece of the spec's state sees them. -/
theorem State.inputs_unchangedBut (s : State) (r : Byte) (d : Nat) (ops : List HostOp) :
    UnchangedBut [.inputs] s { s with rnd := r, draws := d, pending := ops } := by
  intro p hp
  cases p with
  | inputs => exact absurd (List.mem_singleton_self _) hp
  | params | index | delay | sound | fault => rfl
  | regs | keys | memory => exact fun _ => rfl
  | stack => exact ⟨rfl, fun _ => rfl⟩
  | display => exact fun _ _ => rfl

theorem State.sampleInput_unchangedBut (s : State) (r : Byte) : UnchangedBut [.inputs] s (s.sampleInput r) :=
  s.inputs_unchangedBut r (s.draws + 1) s.pending

theorem State.setPending_unchangedBut (s : State) (ops : List HostOp) : UnchangedBut [.inputs] s (s.setPending ops) :=
  s.inputs_unchangedBut s.rnd s.draws ops

end Sys2Proof.Machine
end

section
/-! CALL and RET (spec 41_control_flow.md R90, R92). -/

namespace Sys2Proof.Machine

open Sys2Proof

theorem exec_call_of_lt (nnn : Addr12) {s : State} (h : s.sp.val < 16) : exec (.call nnn) s = .next
    ((s.setStack (s.stack.set s.sp.val s.pc h) ⟨s.sp.val + 1, Nat.succ_lt_succ h⟩).setPc (extNnn nnn)) := by
  rcases exec_call_cases s nnn with ⟨_, e⟩ | ⟨hfull, _⟩
  · exact e
  · omega

theorem exec_call_full (nnn : Addr12) {s : State} (h : s.sp.val = 16) : exec (.call nnn) s =
    .next (s.setFault ⟨.resourceExhausted, .stackOverflow, encode (.call nnn), s.pc⟩) := by
  rcases exec_call_cases s nnn with ⟨hlt, _⟩ | ⟨_, e⟩
  · omega
  · exact e

theorem exec_ret_of_succ {s : State} {k : Fin 16} (h : s.sp.val = k.val + 1) : exec .ret s = .next
    ((s.setStack s.stack k.castSucc).setPc (s.stackAt k + 2)) := by
  have hk : s.sp.val - 1 = k.val := by omega
  rcases exec_ret_cases s with ⟨_, e⟩ | ⟨h0, _⟩
  · simp only [hk] at e
    exact e
  · omega

theorem exec_ret_empty {s : State} (h : s.sp.val = 0) : exec .ret s =
    .next (s.setFault ⟨.resourceExhausted, .stackUnderflow, encode .ret, s.pc⟩) := by
  rcases exec_ret_cases s with ⟨hpos, _⟩ | ⟨_, e⟩
  · omega
  · exact e

/-- After a push, `S[SP]` of before holds the pushed word and every other entry is as it was. -/
theorem State.stackAt_push (s : State) (w : Word) (h : s.sp.val < 16) (p : Fin 17) (k : Fin 16) :
    (s.setStack (s.stack.set s.sp.val w h) p).stackAt k = if k.val = s.sp.val then w else s.stackAt k := by
  rw [State.setStack_stackAt, Vector.getElem_set]
  simp only [eq_comm (a := s.sp.val)]
  rfl

theorem State.setStack_setPc_unchangedBut (s : State) (k : Vector Word Config.stackDepth)
    (p : Fin (Config.stackDepth + 1)) (w : Word) : UnchangedBut [.stack] s ((s.setStack k p).setPc w) :=
  (s.setStack_unchangedBut k p).trans (State.setPc_unchangedBut _ _ _)

/-- Settles O24: the two cases of a push. -/
theorem callPushesItsOwnAddress : Obligations.CallPushesItsOwnAddress := by
  intro nnn s
  refine ⟨word_of_a 0x2 nnn (by decide), fun h => ?_, fun h => exec_call_full nnn h⟩
  exact ⟨_, exec_call_of_lt nnn h, extNnn_toNat nnn, rfl, s.stackAt_push s.pc h ⟨s.sp.val + 1, Nat.succ_lt_succ h⟩,
    s.setStack_setPc_unchangedBut _ _ _⟩

/-- Settles O25: the two cases of a pop. -/
theorem retGoesPastTheCall : Obligations.RetGoesPastTheCall := by
  intro s
  refine ⟨rfl, fun k h => ?_, fun h => exec_ret_empty h⟩
  exact ⟨_, exec_ret_of_succ h, BitVec.toNat_add _ _, rfl, fun _ => rfl, s.setStack_setPc_unchangedBut _ _ _⟩

/-- Settles O26: RET pops the entry that CALL pushed. -/
theorem callThenRetResumesAfterTheCall : Obligations.CallThenRetResumesAfterTheCall := by
  intro nnn s h
  refine ⟨_, _, exec_call_of_lt nnn h, exec_ret_of_succ (k := ⟨s.sp.val, h⟩) rfl, ?_, rfl, ?_⟩
  · rw [State.setPc_pc, State.setPc_stackAt, State.stackAt_push, if_pos rfl]
  · exact (s.setStack_setPc_unchangedBut _ _ _).trans (State.setStack_setPc_unchangedBut _ _ _ _)

end Sys2Proof.Machine
end

section
/-! The shifts (spec 42_alu.md R113, R115). -/

namespace Sys2Proof.Machine

open Sys2Proof

theorem exec_shr (x y : RegIdx) (s : State) :
    exec (.shr x y) s = .next (s.writeAlu x (aluShr (s.reg (shiftReg s.cfg.shiftSrc x y)))).advance := rfl

theorem exec_shl (x y : RegIdx) (s : State) :
    exec (.shl x y) s = .next (s.writeAlu x (aluShl (s.reg (shiftReg s.cfg.shiftSrc x y)))).advance := rfl

/-- The operand that SHIFT_SRC selects (D12). -/
theorem State.reg_shiftReg (s : State) (src : Config.ShiftSrc) (x y : RegIdx) :
    s.reg (shiftReg src x y) = if src = .vx then s.reg x else s.reg y := by
  cases src <;> rfl

theorem aluShr_result_toNat (a : Byte) : (aluShr a).1.toNat = a.toNat / 2 :=
  (BitVec.toNat_ushiftRight a 1).trans (Nat.shiftRight_eq_div_pow _ 1)

theorem aluShr_flag_iff (a : Byte) : (aluShr a).2 = true ↔ a.toNat % 2 = 1 := by
  rw [aluShr, BitVec.getLsbD, Nat.testBit_zero, decide_eq_true_iff]

theorem aluShl_result_toNat (a : Byte) : (aluShl a).1.toNat = a.toNat * 2 % 256 := by
  rw [aluShl, BitVec.toNat_shiftLeft, Nat.shiftLeft_eq]

theorem aluShl_flag_iff (a : Byte) : (aluShl a).2 = true ↔ 128 ≤ a.toNat := by
  have ha := a.isLt
  rw [aluShl, BitVec.getLsbD, Nat.testBit_eq_decide_div_mod_eq, decide_eq_true_iff]
  omega

/-- Settles O33: each is one ALU write of the shifted operand and the bit shifted out. -/
theorem shiftsSetTheBitShiftedOut : Obligations.ShiftsSetTheBitShiftedOut := by
  intro x y s a ha
  rw [← s.reg_shiftReg] at ha
  subst ha
  constructor
  · exact ⟨word_of_xy 0x8 x y 0x6 (by decide) (by decide), _, exec_shr x y s,
      s.writeAlu_advance_writesRegAndFlag x (aluShr_result_toNat _) (aluShr_flag_iff _)⟩
  · exact ⟨word_of_xy 0x8 x y 0xE (by decide) (by decide), _, exec_shl x y s,
      s.writeAlu_advance_writesRegAndFlag x (aluShl_result_toNat _) (aluShl_flag_iff _)⟩

end Sys2Proof.Machine
end

section
/-! The glyph address and the memory instructions (spec 43_index_memory.md R122 to R126). -/

namespace Sys2Proof.Machine

open Sys2Proof

/-! ### The glyph address -/

theorem exec_ldF (x : RegIdx) (s : State) :
    exec (.ldF x) s = .next (s.setI (glyphAddress s.cfg.glyphBase.val (s.reg x))).advance := rfl

/-- The font lies low enough that the whole 8-bit value needs no reduction. -/
theorem glyphAddress_toNat (base : Fin 433) (b : Byte) : (glyphAddress base.val b).toNat = base.val + 5 * b.toNat := by
  have hb := b.isLt
  have hbase := base.isLt
  rw [glyphAddress, BitVec.toNat_ofNat, Nat.mod_eq_of_lt (by omega)]

theorem byte_resetWith (p : Config.Params) (a : Nat) : (State.resetWith p).byte a = resetByte p a := rfl

/-! ### The memory instructions in range -/

theorem exec_ldB_of_le (x : RegIdx) {s : State} (h : s.i.toNat + 2 ≤ 4095) :
    exec (.ldB x) s = .next (s.storeAtI (bcdDigits (s.reg x))).advance := withRange_ok (.inr (by omega))

theorem exec_ldMemVx_of_le (x : RegIdx) {s : State} (h : s.i.toNat + x.val ≤ 4095) :
    exec (.ldMemVx x) s = .next (s.storeAtI (s.regsTo x)).advance := withRange_ok (.inr (by omega))

theorem exec_ldVxMem_of_le (x : RegIdx) {s : State} (h : s.i.toNat + x.val ≤ 4095) :
    exec (.ldVxMem x) s = .next (s.setRegs (s.regsLoadedTo x)).advance := withRange_ok (.inr (by omega))

theorem State.storeAtI_advance_unchangedBut (s : State) (bs : List Byte) :
    UnchangedBut [.memory] s (s.storeAtI bs).advance :=
  (s.setMem_unchangedBut _).trans (State.setPc_unchangedBut _ _ _)

theorem State.setRegs_advance_unchangedBut (s : State) (v : Vector Byte Config.numRegs) :
    UnchangedBut [.regs] s (s.setRegs v).advance :=
  (s.setRegs_unchangedBut v).trans (State.setPc_unchangedBut _ _ _)

/-- The bytes of a store at I, read back. -/
theorem State.byte_storeAtI_of_lt (s : State) (bs : List Byte) {k : Nat} (h : s.i.toNat + bs.length ≤ 4096)
    (hk : k < bs.length) : (s.storeAtI bs).byte (s.i.toNat + k) = bs.getD k 0 := by
  rw [s.byte_storeAtI bs _ h, if_pos (by omega), Nat.add_sub_cancel_left]

theorem State.byte_storeAtI_of_outside (s : State) (bs : List Byte) {a : Nat} (h : s.i.toNat + bs.length ≤ 4096)
    (ha : ¬(s.i.toNat ≤ a ∧ a < s.i.toNat + bs.length)) : (s.storeAtI bs).byte a = s.byte a := by
  rw [s.byte_storeAtI bs _ h, if_neg ha]

theorem State.byte_store_regsTo (s : State) {x k : RegIdx} (h : s.i.toNat + x.val ≤ 4095) (hk : k ≤ x) :
    (s.storeAtI (s.regsTo x)).byte (s.i.toNat + k.val) = s.reg k := by
  have hk' : k.val ≤ x.val := hk
  rw [s.byte_storeAtI_of_lt _ (by rw [s.length_regsTo]; omega) (by rw [s.length_regsTo]; omega), s.getD_regsTo x k hk]

/-- Settles O36: a store of the three digits. -/
theorem bcdDigitsAreStored : Obligations.BcdDigitsAreStored := by
  intro x s
  have hb := (s.reg x).isLt
  refine ⟨word_of_x 0xF x 0x33 (by decide) (by decide), fun h => ?_⟩
  have hr : s.i.toNat + (bcdDigits (s.reg x)).length ≤ 4096 := by rw [length_bcdDigits]; omega
  have digit := fun k hk => s.byte_storeAtI_of_lt (bcdDigits (s.reg x)) (k := k) hr hk
  refine ⟨_, exec_ldB_of_le x h, ?_, ?_, ?_, fun a ha => s.byte_storeAtI_of_outside _ hr ha, rfl,
    s.storeAtI_advance_unchangedBut _⟩
  · rw [State.advance_byte, ← Nat.add_zero s.i.toNat, digit 0 (by rw [length_bcdDigits]; decide)]
    exact Nat.mod_eq_of_lt (by omega)
  · rw [State.advance_byte, digit 1 (by rw [length_bcdDigits]; decide)]
    exact Nat.mod_eq_of_lt (by omega)
  · rw [State.advance_byte, digit 2 (by rw [length_bcdDigits]; decide)]
    exact Nat.mod_eq_of_lt (by omega)

/-- Settles O37: a store of V0 to Vx. -/
theorem registersAreStored : Obligations.RegistersAreStored := by
  intro x s
  refine ⟨word_of_x 0xF x 0x55 (by decide) (by decide), fun h => ?_⟩
  refine ⟨_, exec_ldMemVx_of_le x h, fun k hk => s.byte_store_regsTo h hk, fun a ha => ?_, rfl,
    s.storeAtI_advance_unchangedBut _⟩
  exact s.byte_storeAtI_of_outside _ (by rw [s.length_regsTo]; omega) (by rw [s.length_regsTo]; omega)

/-- Settles O38: register by register. -/
theorem registersAreLoaded : Obligations.RegistersAreLoaded := by
  intro x s
  refine ⟨word_of_x 0xF x 0x65 (by decide) (by decide), fun h => ?_⟩
  refine ⟨_, exec_ldVxMem_of_le x h, fun k hk => ?_, fun k hk => ?_, ?_, s.setRegs_advance_unchangedBut _⟩
  · rw [State.advance_reg, State.setRegs_reg, State.getElem_regsLoadedTo, if_pos hk]
  · rw [State.advance_reg, State.setRegs_reg, State.getElem_regsLoadedTo, if_neg hk]
  · rw [State.advance_pc, State.setRegs_pc]

/-- Settles O39: each checks its whole range before it does anything. -/
theorem memoryOutOfRangeFaults : Obligations.MemoryOutOfRangeFaults := by
  intro s
  refine ⟨fun x y n hn h => ?_, fun x h => ?_, fun x h => ⟨?_, ?_⟩⟩
  · exact withRange_fault (by omega)
  · exact withRange_fault (by omega)
  · exact withRange_fault (by omega)
  · exact withRange_fault (by omega)

/-- Settles O40: the load reads the bytes the store left at I, whatever V holds in between. -/
theorem storeThenLoadRestoresRegisters : Obligations.StoreThenLoadRestoresRegisters := by
  intro x s v h
  refine ⟨_, _, exec_ldMemVx_of_le x h,
    exec_ldVxMem_of_le x (s := (s.storeAtI (s.regsTo x)).advance.setRegs v) h, fun k => ?_⟩
  rw [State.advance_reg, State.setRegs_reg, State.getElem_regsLoadedTo]
  by_cases hk : k ≤ x
  · rw [if_pos hk, if_pos hk]
    exact s.byte_store_regsTo h hk
  · rw [if_neg hk, if_neg hk]
    rfl

/-- Settles O41: the two bytes at PC are two neighbouring stored ones. -/
theorem storedBytesAreFetchedNext : Obligations.StoredBytesAreFetchedNext := by
  intro x k s h hk
  refine ⟨_, exec_ldMemVx_of_le x h, fun p hp => ?_⟩
  have hkx : k.val < x.val := hk
  have hk1 : (k + 1).val = k.val + 1 := by omega
  have hk1x : k + 1 ≤ x := Fin.le_def.mpr (by omega)
  refine ⟨_, State.fetchWord_of_le ((s.storeAtI (s.regsTo x)).advance.setPc p) (by rw [State.setPc_pc]; omega), ?_⟩
  rw [toNat_wordOfBytes, State.setPc_pc, State.setPc_byte, State.setPc_byte, State.advance_byte, State.advance_byte, hp,
    s.byte_store_regsTo h hk.le, Nat.add_assoc, ← hk1, s.byte_store_regsTo h hk1x]

end Sys2Proof.Machine
end

section
/-! The statement of R122, in a namespace of its own: its name is also the model's function. -/

namespace Sys2Proof.Laws

open Sys2Proof.Machine

/-- Settles O35: one write to I of an address that wraps nowhere, so the glyph's bytes are the font's. -/
theorem glyphAddress : Obligations.GlyphAddress := by
  intro x s
  have hi := glyphAddress_toNat s.cfg.glyphBase (s.reg x)
  refine ⟨word_of_x 0xF x 0x29 (by decide) (by decide), _, exec_ldF x s, hi, rfl, s.setI_advance_unchangedBut _, ?_⟩
  intro j hj _
  rw [State.advance_i, State.setI_i, hi, byte_resetWith, Nat.add_assoc, resetByte_font _ hj]

end Sys2Proof.Laws
end

section
/-! The keypad and random instructions (spec 45_timer_key_random.md R140, R144 to R147). -/

namespace Sys2Proof.Machine

open Sys2Proof

theorem exec_skp (x : RegIdx) (s : State) :
    exec (.skp x) s = .next (s.skipIf (s.key (keyIndex (s.reg x)))) := rfl

theorem exec_sknp (x : RegIdx) (s : State) :
    exec (.sknp x) s = .next (s.skipIf (!s.key (keyIndex (s.reg x)))) := rfl

theorem exec_rnd (x : RegIdx) (kk : Byte) (s : State) :
    exec (.rnd x kk) s = .next (s.setReg x (s.rnd &&& kk)).advance := rfl

/-- The key is the low nibble (D16). -/
theorem keyIndex_eq {b : Byte} {k : Fin 16} (h : b.toNat % 16 = k.val) : keyIndex b = k :=
  Fin.ext ((BitVec.extractLsb'_toNat 0 4 b).trans h)

/-- Settles O46: a skip on the key's flag. -/
theorem keySkips : Obligations.KeySkips := by
  intro x s k hk
  constructor
  · refine ⟨word_of_x 0xE x 0x9E (by decide) (by decide), _, exec_skp x s, ?_⟩
    rw [keyIndex_eq hk]
    exact s.skipIf_onlyPc _
  · refine ⟨word_of_x 0xE x 0xA1 (by decide) (by decide), _, exec_sknp x s, ?_⟩
    rw [keyIndex_eq hk]
    cases hkey : s.key k
    · exact s.skipIf_onlyPc true
    · exact s.skipIf_onlyPc false

/-- Settles O47: there is only one lowest key. -/
theorem keyWait : Obligations.KeyWait := by
  intro x s
  refine ⟨word_of_x 0xF x 0x0A (by decide) (by decide), fun k hk hlow => ?_, fun hnone => ?_⟩
  · rcases exec_ldVxK_cases s x with ⟨j, hj, hjlow, e⟩ | ⟨hnone, _⟩
    · obtain rfl : j = k := by
        rcases lt_trichotomy j k with hlt | heq | hgt
        · exact absurd hj (by simp [hlow j hlt])
        · exact heq
        · exact absurd hk (by simp [hjlow k hgt])
      exact ⟨_, e, s.setReg_advance_writesReg x (Nat.mod_eq_of_lt (by omega))⟩
    · exact absurd hk (by simp [hnone k])
  · rcases exec_ldVxK_cases s x with ⟨j, hj, _⟩ | ⟨_, e⟩
    · exact absurd hj (by simp [hnone j])
    · exact e

/-- Settles O48: one write to Vx of the masked byte. -/
theorem randomByteUnderMask : Obligations.RandomByteUnderMask := fun x kk s =>
  ⟨word_of_xk 0xC x kk (by decide), _, exec_rnd x kk s, s.setReg_advance_writesReg x (BitVec.toNat_and _ _)⟩

end Sys2Proof.Machine
end

section
/-! DRW (spec 44_display.md R131 to R136): the statement's sprite is the sprite unit's, and drawing it twice. -/

namespace Sys2Proof.Machine

open Sys2Proof

theorem State.getElem_bytesAtI (s : State) (len : Nat) {k : Nat} (h : k < (s.bytesAtI len).length) :
    (s.bytesAtI len)[k] = s.byte (s.i.toNat + k) :=
  Memory.getElem_readList _ _ _ _ h

/-- The pixels the statement puts under the sprite are those the sprite unit covers. -/
theorem spriteCovers_iff (s : State) (x y : RegIdx) (n : Nibble) (r c : Nat) :
    spriteCovers s x y n.toNat r c ↔
      Grid.SpriteCovers Config.dispW s.cfg.dispH.rows (s.reg x).toNat (s.reg y).toNat (s.bytesAtI n.toNat) r c := by
  constructor
  · rintro ⟨k, hk, j, hj, hr, hc, hbit⟩
    have hlen : k < (s.bytesAtI n.toNat).length := by rwa [s.length_bytesAtI]
    refine ⟨k, _, List.getElem?_eq_getElem hlen, hr.symm, j, hj, hc.symm, ?_⟩
    rwa [s.getElem_bytesAtI]
  · rintro ⟨k, b, hb, hr, j, hj, hc, hbit⟩
    obtain ⟨hk, hb⟩ := List.getElem?_eq_some_iff.mp hb
    rw [s.getElem_bytesAtI] at hb
    rw [s.length_bytesAtI] at hk
    exact ⟨k, hk, j, hj, hr.symm, hc.symm, by rwa [hb]⟩

/-- What DRW draws (R131, R133): the pixels under the sprite inverted, the others kept, and whether one of the former
was on. -/
theorem State.spriteDrawn_spec (s : State) (x y : RegIdx) (n : Nibble) :
    (∀ r c, spriteCovers s x y n.toNat r c → (s.spriteDrawn x y n).1.pixel r c = !s.pixel r c) ∧
    (∀ r c, ¬spriteCovers s x y n.toNat r c → (s.spriteDrawn x y n).1.pixel r c = s.pixel r c) ∧
    ((s.spriteDrawn x y n).2 = true ↔ ∃ r c, spriteCovers s x y n.toNat r c ∧ s.pixel r c = true) := by
  have hn := n.isLt
  have hrows := s.cfg.dispH.le_rows
  obtain ⟨hin, hout, hhit⟩ := Grid.drawRows_spec (s.reg x).toNat (s.bytesAtI n.toNat) (by decide) (s.reg y).toNat
    (s.fb, false) (by rw [s.length_bytesAtI]; omega)
  simp only [spriteCovers_iff]
  refine ⟨hin, hout, hhit.trans ?_⟩
  rw [or_iff_right Bool.false_ne_true]
  rfl

/-- The state after a DRW in range. -/
def State.afterDrw (s : State) (x y : RegIdx) (n : Nibble) : State :=
  ((s.setFb (s.spriteDrawn x y n).1).setReg vf (flagByte (s.spriteDrawn x y n).2)).advance

theorem exec_drw_of_le (x y : RegIdx) {n : Nibble} {s : State}
    (h : n.toNat = 0 ∨ s.i.toNat + n.toNat - 1 ≤ 4095) : exec (.drw x y n) s = .next (s.afterDrw x y n) :=
  withRange_ok (by omega)

theorem State.afterDrw_pixel (s : State) (x y : RegIdx) (n : Nibble) (r c : Nat) :
    (s.afterDrw x y n).pixel r c = (s.spriteDrawn x y n).1.pixel r c := rfl

theorem State.afterDrw_reg_of_ne (s : State) (x y : RegIdx) (n : Nibble) {r : RegIdx} (hr : r ≠ 15) :
    (s.afterDrw x y n).reg r = s.reg r := by
  rw [State.afterDrw, State.advance_reg, State.reg_setReg_of_ne _ _ (show r ≠ vf from hr), State.setFb_reg]

theorem State.afterDrw_vf (s : State) (x y : RegIdx) (n : Nibble) :
    (s.afterDrw x y n).reg 15 = flagByte (s.spriteDrawn x y n).2 := by
  rw [State.afterDrw, State.advance_reg]
  exact State.reg_setReg_same _ _ _

theorem State.afterDrw_vf_of_hit {s : State} {x y : RegIdx} {n : Nibble}
    (h : ∃ r c, spriteCovers s x y n.toNat r c ∧ s.pixel r c = true) : (s.afterDrw x y n).reg 15 = 1 := by
  rw [s.afterDrw_vf, (s.spriteDrawn_spec x y n).2.2.mpr h]
  rfl

theorem State.afterDrw_vf_of_miss {s : State} {x y : RegIdx} {n : Nibble}
    (h : ¬∃ r c, spriteCovers s x y n.toNat r c ∧ s.pixel r c = true) : (s.afterDrw x y n).reg 15 = 0 := by
  rw [s.afterDrw_vf, Bool.eq_false_iff.mpr (mt (s.spriteDrawn_spec x y n).2.2.mp h)]
  rfl

theorem State.setFb_setReg_advance_unchangedBut (s : State) (fb : Framebuffer s.cfg.dispH) (x : RegIdx) (b : Byte) :
    UnchangedBut [.regs, .display] s ((s.setFb fb).setReg x b).advance :=
  ((s.setFb_unchangedBut _).mono (by decide)).trans
    (((State.setReg_unchangedBut _ _ _).mono (by decide)).trans (State.setPc_unchangedBut _ _ _))

/-- Settles O43: the sprite unit's law, read through the state. -/
theorem spriteInvertsThePixelsItCovers : Obligations.SpriteInvertsThePixelsItCovers := by
  intro x y n s
  refine ⟨word_of_xyn 0xD x y n (by decide), fun h => ?_⟩
  obtain ⟨hin, hout, _⟩ := s.spriteDrawn_spec x y n
  exact ⟨_, exec_drw_of_le x y h, hin, hout, State.afterDrw_vf_of_hit, State.afterDrw_vf_of_miss,
    fun r hr => s.afterDrw_reg_of_ne x y n hr, rfl, s.setFb_setReg_advance_unchangedBut _ _ _⟩

/-- The second of two draws covers the same pixels, the coordinates not being VF (R136). -/
theorem spriteCovers_afterDrw (s : State) {x y : RegIdx} (n : Nibble) (hx : x ≠ 15) (hy : y ≠ 15) (r c : Nat) :
    spriteCovers (s.afterDrw x y n) x y n.toNat r c ↔ spriteCovers s x y n.toNat r c := by
  rw [spriteCovers, s.afterDrw_reg_of_ne x y n hx, s.afterDrw_reg_of_ne x y n hy]
  rfl

/-- Settles O44: the second draw inverts the pixels that the first inverted, so it hits those the first turned on. -/
theorem drawingTwiceRestoresTheDisplay : Obligations.DrawingTwiceRestoresTheDisplay := by
  intro x y n s hx hy h
  obtain ⟨hin, hout, _⟩ := s.spriteDrawn_spec x y n
  obtain ⟨hin', hout', _⟩ := (s.afterDrw x y n).spriteDrawn_spec x y n
  have hcov := spriteCovers_afterDrw s n hx hy
  have hturned : ∀ r c, (s.pixel r c = false ∧ (s.afterDrw x y n).pixel r c = true) ↔
      (spriteCovers (s.afterDrw x y n) x y n.toNat r c ∧ (s.afterDrw x y n).pixel r c = true) := by
    intro r c
    rw [hcov, s.afterDrw_pixel]
    by_cases hc : spriteCovers s x y n.toNat r c
    · simp [hin r c hc, hc]
    · simp [hout r c hc, hc]
  refine ⟨_, _, exec_drw_of_le x y h, exec_drw_of_le x y h, fun r c => ?_, fun ht => ?_, fun ht => ?_⟩
  · by_cases hc : spriteCovers s x y n.toNat r c
    · rw [State.afterDrw_pixel, hin' r c ((hcov r c).mpr hc), State.afterDrw_pixel, hin r c hc, Bool.not_not]
    · rw [State.afterDrw_pixel, hout' r c (mt (hcov r c).mp hc), State.afterDrw_pixel, hout r c hc]
  · exact State.afterDrw_vf_of_hit (by simpa only [hturned] using ht)
  · exact State.afterDrw_vf_of_miss (by simpa only [hturned] using ht)

end Sys2Proof.Machine
end

section
/-! The canonical form of memory (log entry 7): it is determined by what it reads. -/

namespace Sys2Proof.Machine

open Sys2Proof

variable {p : Config.Params}

theorem Memory.wfFrom_cons {lo a : Nat} {v : Byte} {m : Memory} (h : Memory.wfFrom p lo ((a, v) :: m) = true) :
    lo ≤ a ∧ v ≠ resetByte p a ∧ Memory.wfFrom p (a + 1) m = true := by
  simp only [Memory.wfFrom, Bool.and_eq_true, decide_eq_true_eq, bne_iff_ne] at h
  exact ⟨h.1.1.1, h.1.2, h.2⟩

/-- The bound on the addresses may be raised as far as the first one. -/
theorem Memory.wfFrom_raise {lo lo' a : Nat} {v : Byte} {m : Memory} (h : Memory.wfFrom p lo ((a, v) :: m) = true)
    (hlo : lo' ≤ a) : Memory.wfFrom p lo' ((a, v) :: m) = true := by
  simp only [Memory.wfFrom, Bool.and_eq_true, decide_eq_true_eq] at h ⊢
  exact ⟨⟨⟨hlo, h.1.1.2⟩, h.1.2⟩, h.2⟩

/-- Below the first listed address every byte reads as after Reset. -/
theorem Memory.read_of_lt {lo a : Nat} {m : Memory} (h : Memory.wfFrom p lo m = true) (ha : a < lo) :
    m.read p a = resetByte p a := by
  induction m generalizing lo with
  | nil => rfl
  | cons c m ih =>
    obtain ⟨hlo, _, htail⟩ := Memory.wfFrom_cons h
    rw [Memory.read, if_neg (by omega), ih htail (by omega)]

theorem Memory.read_cons_same (a : Nat) (v : Byte) (m : Memory) : Memory.read p ((a, v) :: m) a = v := if_pos rfl

theorem Memory.read_cons_of_ne {a b : Nat} (v : Byte) (m : Memory) (h : a ≠ b) :
    Memory.read p ((a, v) :: m) b = m.read p b := if_neg h

/-- The lowest listed address is one whose byte a memory listing only higher addresses does not have. -/
theorem Memory.reads_differ_at_head {lo a : Nat} {v : Byte} {m m' : Memory}
    (h : Memory.wfFrom p lo ((a, v) :: m) = true) (h' : Memory.wfFrom p (a + 1) m' = true) :
    Memory.read p ((a, v) :: m) a ≠ m'.read p a := by
  rw [Memory.read_cons_same, Memory.read_of_lt h' (Nat.lt_succ_self a)]
  exact (Memory.wfFrom_cons h).2.1

theorem Memory.eq_of_read_eq {lo : Nat} {m m' : Memory} (h : Memory.wfFrom p lo m = true)
    (h' : Memory.wfFrom p lo m' = true) (e : ∀ a, m.read p a = m'.read p a) : m = m' := by
  induction m generalizing lo m' with
  | nil =>
    cases m' with
    | nil => rfl
    | cons c' m' => exact absurd (e c'.1).symm (Memory.reads_differ_at_head h' (m' := []) rfl)
  | cons c m ih =>
    obtain ⟨a, v⟩ := c
    cases m' with
    | nil => exact absurd (e a) (Memory.reads_differ_at_head h (m' := []) rfl)
    | cons c' m' =>
      obtain ⟨b, u⟩ := c'
      obtain ⟨_, _, htail⟩ := Memory.wfFrom_cons h
      obtain ⟨_, _, htail'⟩ := Memory.wfFrom_cons h'
      rcases lt_trichotomy a b with hab | rfl | hab
      · exact absurd (e a) (Memory.reads_differ_at_head h (Memory.wfFrom_raise h' hab))
      · have hvu : v = u := by simpa only [Memory.read_cons_same] using e a
        have htails : m = m' := ih htail htail' fun k => by
          by_cases hk : a = k
          · rw [Memory.read_of_lt htail (by omega), Memory.read_of_lt htail' (by omega)]
          · simpa only [Memory.read_cons_of_ne _ _ hk] using e k
        rw [hvu, htails]
      · exact absurd (e b).symm (Memory.reads_differ_at_head h' (Memory.wfFrom_raise h hab))

/-- Settles O19: from address 0 on, by induction on the two lists. -/
theorem equalMemoriesAreEqualData : Obligations.EqualMemoriesAreEqualData :=
  fun _ _ _ h h' e => Memory.eq_of_read_eq h h' e

end Sys2Proof.Machine
end

section
/-! Reset, Load, Tick, KeyWrite and StateRead (spec 50_interfaces.md, 60_exceptions.md R182, 70_reset_and_hazards.md). -/

namespace Sys2Proof.Machine

open Sys2Proof

/-! ### Reset -/

theorem reg_resetWith (p : Config.Params) (r : RegIdx) : (State.resetWith p).reg r = 0 :=
  Vector.getElem_replicate _

theorem stackAt_resetWith (p : Config.Params) (k : Fin 16) : (State.resetWith p).stackAt k = 0 :=
  Vector.getElem_replicate _

theorem key_resetWith (p : Config.Params) (k : Fin 16) : (State.resetWith p).key k = false :=
  Vector.getElem_replicate _

theorem pixel_resetWith (p : Config.Params) (r c : Nat) : (State.resetWith p).pixel r c = false :=
  Grid.pixel_clear _ _ r c

/-- Settles O1: each row of the table is read off the reset state. -/
theorem resetHoldsTheSpecValues : Obligations.ResetHoldsTheSpecValues := by
  constructor
  · intro p
    exact ⟨reg_resetWith p, rfl, rfl, stackAt_resetWith p, rfl, rfl, rfl, fun j h => resetByte_font j h,
      fun a h => resetByte_outside a h, pixel_resetWith p, key_resetWith p, rfl, rfl, rfl, rfl⟩
  · exact ⟨Config.defaults, rfl, rfl, rfl, rfl, rfl, rfl⟩

theorem resetWith_inv (p : Config.Params) : (State.resetWith p).Inv where
  mem := rfl
  pc := show (0x0200 : Word).toNat ≤ maxPc by decide
  stack k := by rw [stackAt_resetWith]; decide
  fault := rfl

/-- Settles O16: no byte is listed, PC is 0x200, every entry is 0 and FAULT is clear. -/
theorem resetMeetsTheInvariant : Obligations.ResetMeetsTheInvariant := ⟨resetWith_inv _, resetWith_inv⟩

theorem State.resetOp_unchangedBut (s : State) : UnchangedBut [.inputs] (State.resetWith s.cfg) s.resetOp :=
  State.inputs_unchangedBut _ s.rnd s.draws s.pending

/-- Settles O52: Reset is the reset state with the input fields kept. -/
theorem resetRestoresEverything : Obligations.ResetRestoresEverything := fun s rest h =>
  ⟨_, step_of_pending h, rfl, (s.setPending rest).resetOp_unchangedBut, rfl⟩

/-! ### Load -/

theorem State.byte_loadOp (rom : List Byte) (s : State) (a : Nat) : (s.loadOp rom).byte a =
    if 0x200 ≤ a ∧ a < 0x200 + min rom.length 3584 then rom.getD (a - 0x200) 0 else resetByte s.cfg a := by
  have hlen : (rom.take 3584).length = min rom.length 3584 := by rw [List.length_take, Nat.min_comm]
  have e := Memory.read_writeList (p := s.cfg) [] 0x200 a (rom.take 3584) (by rw [hlen, Config.memSize]; omega)
  rw [hlen] at e
  refine e.trans ?_
  by_cases hin : 0x200 ≤ a ∧ a < 0x200 + min rom.length 3584
  · rw [if_pos hin, if_pos hin, List.getD_eq_getElem?_getD, List.getElem?_take_of_lt (by omega),
      List.getD_eq_getElem?_getD]
  · rw [if_neg hin, if_neg hin]
    rfl

theorem State.loadOp_unchangedBut (rom : List Byte) (s : State) :
    UnchangedBut [.memory, .inputs] (State.resetWith s.cfg) (s.loadOp rom) :=
  (s.resetOp_unchangedBut.mono (by decide)).trans ((State.setMem_unchangedBut _ _).mono (by decide))

/-- A Load leaves a memory in canonical form: a store on the reset memory, which lists nothing. -/
theorem State.loadOp_wf (rom : List Byte) (s : State) : (s.loadOp rom).mem.wf s.cfg = true :=
  Memory.wf_writeList (m := []) 0x200 (rom.take 3584) rfl

/-- Settles O53: a Reset, then a store of what fits. -/
theorem loadCopiesTheImage : Obligations.LoadCopiesTheImage := by
  intro s rom rest h
  refine ⟨_, step_of_pending h, rfl, fun j hj => ?_, fun a ha => ?_, (s.setPending rest).loadOp_unchangedBut rom, rfl,
    (s.setPending rest).loadOp_wf rom⟩
  · refine ((s.setPending rest).byte_loadOp rom _).trans ?_
    rw [if_pos (by omega), Nat.add_sub_cancel_left]
  · exact ((s.setPending rest).byte_loadOp rom a).trans (if_neg (by omega))

/-! ### Tick -/

theorem tickByte_toNat (b : Byte) : (tickByte b).toNat = b.toNat - 1 := by
  unfold tickByte
  split <;> bv_omega

theorem State.tick_unchangedBut (s : State) : UnchangedBut [.delay, .sound] s s.tick :=
  ((s.setDt_unchangedBut _).mono (by decide)).trans ((State.setSt_unchangedBut _ _).mono (by decide))

/-- Settles O49: both timers, one decrement that stops at 0. -/
theorem tickCountsBothTimersDown : Obligations.TickCountsBothTimersDown := by
  intro s rest h
  refine ⟨_, step_of_pending h, tickByte_toNat s.dt, tickByte_toNat s.st, rfl, ?_, rfl⟩
  exact ((s.setPending_unchangedBut rest).mono (by decide)).trans ((State.tick_unchangedBut _).mono (by decide))

/-- Settles O50: by induction on the number of Ticks. -/
theorem ticksReachZero : Obligations.TicksReachZero := by
  intro n
  induction n with
  | zero => exact fun s h => ⟨s, rfl, rfl, rfl, h, rfl⟩
  | succ n ih =>
    intro s h
    obtain ⟨t, hstep, hdt, hst, hpc, _, hpending⟩ := tickCountsBothTimersDown s _ h
    obtain ⟨u, hrun, hdt', hst', hpending', hpc'⟩ := ih t hpending
    exact ⟨u, (run_succ_of_next core n hstep).trans hrun, by omega, by omega, hpending', hpc'.trans hpc⟩

/-! ### KeyWrite and StateRead -/

/-- Settles O51: one write to the keypad latch. -/
theorem keyWriteSetsAllKeys : Obligations.KeyWriteSetsAllKeys := by
  intro s keys rest h
  refine ⟨_, step_of_pending h, fun k => rfl, rfl, ?_, rfl⟩
  exact ((s.setPending_unchangedBut rest).mono (by decide)).trans ((State.setKeys_unchangedBut _ _).mono (by decide))

theorem State.length_window (s : State) (a len : Nat) : (s.window a len).length = min len (4096 - a) :=
  Memory.length_readList _ _ _

theorem State.getElem?_window (s : State) (a : Nat) {len j : Nat} (hj : j < len) (ha : a + j ≤ 4095) :
    (s.window a len)[j]? = some (s.byte (a + j)) := by
  have hlen : j < (s.window a len).length := by rw [s.length_window]; omega
  rw [List.getElem?_eq_getElem hlen]
  exact congrArg some (Memory.getElem_readList _ _ _ _ hlen)

/-- Settles O54: the snapshot's fields are the state's, and its window holds the bytes that exist. -/
theorem stateReadShowsAndChangesNothing : Obligations.StateReadShowsAndChangesNothing := by
  intro s rest h
  refine ⟨step_of_pending h, fun a len => ⟨fun _ => rfl, rfl, rfl, rfl, rfl, rfl, fun _ => rfl, fun _ => rfl,
    fun _ _ => rfl, rfl, ?_, s.length_window a len, fun j hj ha => s.getElem?_window a hj ha⟩⟩
  rw [Bool.eq_iff_iff, decide_eq_true_iff]
  refine s.soundOn_iff.trans (not_congr ?_)
  rw [← BitVec.toNat_inj]
  rfl

end Sys2Proof.Machine
end

section
/-! What an instruction can do, said once: the faults of R171, and the shapes of an effect without fault; from these who
may write what (R10 to R23). -/

namespace Sys2Proof.Machine

open Sys2Proof

/-! ### The faults of an instruction -/

/-- R171: the instruction faults in this state, with this cause. -/
def Traps (s : State) : Instr → FaultCause → Prop
  | .ret, c => c = .stackUnderflow ∧ s.sp.val = 0
  | .call _, c => c = .stackOverflow ∧ s.sp.val = 16
  | .drw _ _ n, c => c = .memoryOutOfRange ∧ n.toNat ≠ 0 ∧ 4095 < s.i.toNat + n.toNat - 1
  | .ldB _, c => c = .memoryOutOfRange ∧ 4095 < s.i.toNat + 2
  | .ldMemVx x, c | .ldVxMem x, c => c = .memoryOutOfRange ∧ 4095 < s.i.toNat + x.val
  | _, _ => False

/-- The fault of kind and cause `c` for the word of `i`. -/
def State.trapped (s : State) (i : Instr) (c : FaultCause) : State := s.setFault ⟨c.kind, c, encode i, s.pc⟩

theorem Traps.kind_ne_none {s : State} {i : Instr} {c : FaultCause} (h : Traps s i c) : c.kind ≠ .none := by
  cases i with
  | ret | call _ | drw _ _ _ | ldB _ | ldMemVx _ | ldVxMem _ =>
    obtain ⟨rfl, _⟩ := h
    decide
  | _ => exact h.elim

/-! ### The effects without fault -/

/-- The shapes an effect without fault has, each with what the rules of the parts say of its instructions. -/
inductive Done (s : State) : Instr → State → Prop
  | wait (x : RegIdx) : Done s (.ldVxK x) s
  | jump {i : Instr} {w : Word} (hw : w.toNat ≤ maxPc) (hp : mayWrite i = []) (hf : setsFlag i = false) :
    Done s i (s.setPc w)
  | skip {i : Instr} {c : Bool} (hp : mayWrite i = []) (hf : setsFlag i = false) : Done s i (s.skipIf c)
  | reg {i : Instr} {x : RegIdx} {b : Byte} (hp : mayWrite i = [.regs]) (hd : destRegs i = [x])
    (hf : setsFlag i = false) : Done s i (s.setReg x b).advance
  | alu {i : Instr} {x : RegIdx} {out : AluOut} (hp : mayWrite i = [.regs]) (hd : destRegs i = [x])
    (hf : setsFlag i = true) : Done s i (s.writeAlu x out).advance
  | index {i : Instr} {w : Word} (hp : mayWrite i = [.index]) (hf : setsFlag i = false) : Done s i (s.setI w).advance
  | delay (x : RegIdx) : Done s (.ldDtVx x) (s.setDt (s.reg x)).advance
  | sound (x : RegIdx) : Done s (.ldStVx x) (s.setSt (s.reg x)).advance
  | clear : Done s .cls (s.setFb (Grid.clear Config.dispW s.cfg.dispH.rows)).advance
  | draw {x y : RegIdx} {n : Nibble} {fb : Framebuffer s.cfg.dispH} {hit : Bool} :
    Done s (.drw x y n) ((s.setFb fb).setReg vf (flagByte hit)).advance
  | store {i : Instr} {bs : List Byte} (hp : mayWrite i = [.memory, .fault]) (hf : setsFlag i = false) :
    Done s i (s.storeAtI bs).advance
  | load {x : RegIdx} {v : Vector Byte Config.numRegs} (hv : ∀ r : RegIdx, ¬r ≤ x → v[r.val] = s.reg r) :
    Done s (.ldVxMem x) (s.setRegs v).advance
  | call (nnn : Addr12) (h : s.sp.val < 16) : Done s (.call nnn)
      ((s.setStack (s.stack.set s.sp.val s.pc h) ⟨s.sp.val + 1, Nat.succ_lt_succ h⟩).setPc (extNnn nnn))
  | ret (k : Fin 16) : Done s .ret ((s.setStack s.stack k.castSucc).setPc (s.stackAt k + 2))

/-- What executing `i` in `s` answers: the fault whose condition holds, or, none holding, an effect of its shape. -/
def Answers (s : State) (i : Instr) : Prop :=
  (∃ c, Traps s i c ∧ exec i s = .next (s.trapped i c)) ∨
  ((∀ c, ¬Traps s i c) ∧ ∃ t, exec i s = .next t ∧ Done s i t)

theorem answers_of_done {s t : State} {i : Instr} (hn : ∀ c, ¬Traps s i c) (he : exec i s = .next t)
    (hd : Done s i t) : Answers s i := .inr ⟨hn, t, he, hd⟩

theorem answers_ret (s : State) : Answers s .ret := by
  by_cases h : s.sp.val = 0
  · exact .inl ⟨_, ⟨rfl, h⟩, exec_ret_empty h⟩
  · have hsp : s.sp.val < 17 := s.sp.isLt
    have hk : s.sp.val - 1 < 16 := by omega
    refine answers_of_done (fun c hc => h hc.2) (exec_ret_of_succ (k := ⟨s.sp.val - 1, hk⟩) ?_) (.ret _)
    exact (Nat.sub_add_cancel (Nat.pos_of_ne_zero h)).symm

theorem answers_call (nnn : Addr12) (s : State) : Answers s (.call nnn) := by
  rcases exec_call_cases s nnn with ⟨h, e⟩ | ⟨h, e⟩
  · exact answers_of_done (fun c hc => by have := hc.2; omega) e (.call nnn h)
  · exact .inl ⟨_, ⟨rfl, h⟩, e⟩

theorem answers_ldVxK (x : RegIdx) (s : State) : Answers s (.ldVxK x) := by
  rcases exec_ldVxK_cases s x with ⟨k, _, _, e⟩ | ⟨_, e⟩
  · exact answers_of_done (fun _ => id) e (.reg rfl rfl rfl)
  · exact answers_of_done (fun _ => id) e (.wait x)

theorem answers_drw (x y : RegIdx) (n : Nibble) (s : State) : Answers s (.drw x y n) := by
  rcases exec_drw_cases s x y n with ⟨h, e⟩ | ⟨h, e⟩
  · exact answers_of_done (fun c hc => by have := hc.2; omega) e .draw
  · exact .inl ⟨_, ⟨rfl, by omega, by omega⟩, e⟩

theorem answers_ldB (x : RegIdx) (s : State) : Answers s (.ldB x) := by
  rcases exec_ldB_cases s x with ⟨h, e⟩ | ⟨h, e⟩
  · exact answers_of_done (fun c hc => by have := hc.2; omega) e (.store rfl rfl)
  · exact .inl ⟨_, ⟨rfl, by omega⟩, e⟩

theorem answers_ldMemVx (x : RegIdx) (s : State) : Answers s (.ldMemVx x) := by
  rcases exec_ldMemVx_cases s x with ⟨h, e⟩ | ⟨h, e⟩
  · exact answers_of_done (fun c hc => by have := hc.2; omega) e (.store rfl rfl)
  · exact .inl ⟨_, ⟨rfl, by omega⟩, e⟩

theorem answers_ldVxMem (x : RegIdx) (s : State) : Answers s (.ldVxMem x) := by
  rcases exec_ldVxMem_cases s x with ⟨h, e⟩ | ⟨h, e⟩
  · refine answers_of_done (fun c hc => by have := hc.2; omega) e (.load fun r hr => ?_)
    rw [State.getElem_regsLoadedTo, if_neg hr]
  · exact .inl ⟨_, ⟨rfl, by omega⟩, e⟩

theorem extNnn_le_maxPc (nnn : Addr12) : (extNnn nnn).toNat ≤ maxPc := by
  have := nnn.isLt
  rw [extNnn_toNat, maxPc]
  omega

/-- The largest jump target is R15's bound. -/
theorem extNnn_add_extByte_le_maxPc (nnn : Addr12) (b : Byte) : (extNnn nnn + extByte b).toNat ≤ maxPc := by
  have := nnn.isLt
  have := b.isLt
  rw [extNnn_add_extByte_toNat, maxPc]
  omega

/-- What each instruction answers, by its constructor. -/
theorem exec_answers (i : Instr) (s : State) : Answers s i := by
  cases i with
  | cls => exact answers_of_done (fun _ => id) (exec_cls s) .clear
  | ret => exact answers_ret s
  | jp nnn => exact answers_of_done (fun _ => id) (exec_jp nnn s) (.jump (extNnn_le_maxPc nnn) rfl rfl)
  | call nnn => exact answers_call nnn s
  | seImm x kk => exact answers_of_done (fun _ => id) (exec_seImm x kk s) (.skip rfl rfl)
  | sneImm x kk => exact answers_of_done (fun _ => id) (exec_sneImm x kk s) (.skip rfl rfl)
  | seReg x y => exact answers_of_done (fun _ => id) (exec_seReg x y s) (.skip rfl rfl)
  | ldImm x kk => exact answers_of_done (fun _ => id) (exec_ldImm x kk s) (.reg rfl rfl rfl)
  | addImm x kk => exact answers_of_done (fun _ => id) (exec_addImm x kk s) (.reg rfl rfl rfl)
  | ldReg x y => exact answers_of_done (fun _ => id) (exec_ldReg x y s) (.reg rfl rfl rfl)
  | orReg x y => exact answers_of_done (fun _ => id) (exec_orReg x y s) (.reg rfl rfl rfl)
  | andReg x y => exact answers_of_done (fun _ => id) (exec_andReg x y s) (.reg rfl rfl rfl)
  | xorReg x y => exact answers_of_done (fun _ => id) (exec_xorReg x y s) (.reg rfl rfl rfl)
  | addReg x y => exact answers_of_done (fun _ => id) (exec_addReg x y s) (.alu rfl rfl rfl)
  | subReg x y => exact answers_of_done (fun _ => id) (exec_subReg x y s) (.alu rfl rfl rfl)
  | shr x y => exact answers_of_done (fun _ => id) (exec_shr x y s) (.alu rfl rfl rfl)
  | subnReg x y => exact answers_of_done (fun _ => id) (exec_subnReg x y s) (.alu rfl rfl rfl)
  | shl x y => exact answers_of_done (fun _ => id) (exec_shl x y s) (.alu rfl rfl rfl)
  | sneReg x y => exact answers_of_done (fun _ => id) (exec_sneReg x y s) (.skip rfl rfl)
  | ldI nnn => exact answers_of_done (fun _ => id) (exec_ldI nnn s) (.index rfl rfl)
  | jpV0 nnn =>
    exact answers_of_done (fun _ => id) (exec_jpV0 nnn s) (.jump (extNnn_add_extByte_le_maxPc nnn _) rfl rfl)
  | rnd x kk => exact answers_of_done (fun _ => id) (exec_rnd x kk s) (.reg rfl rfl rfl)
  | drw x y n => exact answers_drw x y n s
  | skp x => exact answers_of_done (fun _ => id) (exec_skp x s) (.skip rfl rfl)
  | sknp x => exact answers_of_done (fun _ => id) (exec_sknp x s) (.skip rfl rfl)
  | ldVxDt x => exact answers_of_done (fun _ => id) (exec_ldVxDt x s) (.reg rfl rfl rfl)
  | ldVxK x => exact answers_ldVxK x s
  | ldDtVx x => exact answers_of_done (fun _ => id) (exec_ldDtVx x s) (.delay x)
  | ldStVx x => exact answers_of_done (fun _ => id) (exec_ldStVx x s) (.sound x)
  | addI x => exact answers_of_done (fun _ => id) (exec_addI x s) (.index rfl rfl)
  | ldF x => exact answers_of_done (fun _ => id) (exec_ldF x s) (.index rfl rfl)
  | ldB x => exact answers_ldB x s
  | ldMemVx x => exact answers_ldMemVx x s
  | ldVxMem x => exact answers_ldVxMem x s

/-- The inversion of an execution: a fault, or an effect without one. -/
theorem exec_cases {i : Instr} {s t : State} (h : exec i s = .next t) :
    (∃ c, Traps s i c ∧ t = s.trapped i c) ∨ ((∀ c, ¬Traps s i c) ∧ Done s i t) := by
  rcases exec_answers i s with ⟨c, hc, e⟩ | ⟨hn, u, e, hd⟩
  · rw [e] at h
    cases h
    exact .inl ⟨c, hc, rfl⟩
  · rw [e] at h
    cases h
    exact .inr ⟨hn, hd⟩

/-! ### Who may write what -/

theorem Done.unchangedBut {s t : State} {i : Instr} (h : Done s i t) : UnchangedBut (mayWrite i) s t := by
  cases h with
  | wait x => exact UnchangedBut.refl _ _
  | jump hw hp hf => exact State.setPc_unchangedBut _ _ _
  | skip hp hf => exact State.setPc_unchangedBut _ _ _
  | reg hp hd hf => rw [hp]; exact (s.setReg_unchangedBut _ _).trans (State.setPc_unchangedBut _ _ _)
  | alu hp hd hf => rw [hp]; exact (s.writeAlu_unchangedBut _ _).trans (State.setPc_unchangedBut _ _ _)
  | index hp hf => rw [hp]; exact s.setI_advance_unchangedBut _
  | delay x => exact s.setDt_advance_unchangedBut _
  | sound x => exact s.setSt_advance_unchangedBut _
  | clear => exact s.setFb_advance_unchangedBut _
  | draw => exact (s.setFb_setReg_advance_unchangedBut _ _ _).mono (by simp [mayWrite])
  | store hp hf => rw [hp]; exact (s.storeAtI_advance_unchangedBut _).mono (by decide)
  | load hv => exact (s.setRegs_advance_unchangedBut _).mono (by simp [mayWrite])
  | call nnn h => exact (s.setStack_setPc_unchangedBut _ _ _).mono (by simp [mayWrite])
  | ret k => exact (s.setStack_setPc_unchangedBut _ _ _).mono (by simp [mayWrite])

theorem Traps.fault_mem_mayWrite {s : State} {i : Instr} {c : FaultCause} (h : Traps s i c) :
    Part.fault ∈ mayWrite i := by
  cases i with
  | ret | call _ | drw _ _ _ | ldB _ | ldMemVx _ | ldVxMem _ => simp [mayWrite]
  | _ => exact h.elim

/-- Settles O20: the frame of each shape of effect, and of a fault. -/
theorem onlyNamedInstructionsWriteAPart : Obligations.OnlyNamedInstructionsWriteAPart := by
  intro i s t h
  rcases exec_cases h with ⟨c, hc, rfl⟩ | ⟨_, hd⟩
  · exact (s.setFault_unchangedBut _).mono (by simpa using hc.fault_mem_mayWrite)
  · exact hd.unchangedBut

/-- A part that is not V leaves every register as it was. -/
theorem regsUnchangedBut_of_part {ps : List Part} {s t : State} {p : RegIdx → Prop} (h : UnchangedBut ps s t)
    (hp : Part.regs ∉ ps) : RegsUnchangedBut p s t := fun r _ => h .regs hp r

theorem Done.regsUnchangedBut {s t : State} {i : Instr} (h : Done s i t) :
    RegsUnchangedBut (fun r => r ∈ destRegs i ∨ (r = 15 ∧ setsFlag i = true)) s t := by
  have hpart := h.unchangedBut
  cases h with
  | wait x => exact fun _ _ => rfl
  | jump hw hp hf | skip hp hf => exact regsUnchangedBut_of_part hpart (by simp [hp])
  | index hp hf | store hp hf => exact regsUnchangedBut_of_part hpart (by simp [hp])
  | delay x | sound x | clear | call nnn h | ret k => exact regsUnchangedBut_of_part hpart (by simp [mayWrite])
  | reg hp hd hf =>
    intro r hr
    exact s.reg_setReg_of_ne _ fun e => hr (.inl (by simp [hd, e]))
  | alu hp hd hf =>
    intro r hr
    exact s.writeAlu_reg_of_ne _ (fun e => hr (.inl (by simp [hd, e]))) fun e => hr (.inr ⟨e, hf⟩)
  | draw =>
    intro r hr
    exact State.reg_setReg_of_ne _ _ fun e => hr (.inr ⟨e, rfl⟩)
  | load hv =>
    intro r hr
    exact hv r fun hle => hr (.inl (by simp [destRegs, hle]))

theorem flagByte_eq_zero_or_one (f : Bool) : flagByte f = 0 ∨ flagByte f = 1 := by cases f <;> simp [flagByte]

theorem Done.flag {s t : State} {i : Instr} (h : Done s i t) (hflag : setsFlag i = true) :
    t.reg 15 = 0 ∨ t.reg 15 = 1 := by
  cases h with
  | alu hp hd hf =>
    rw [State.advance_reg, State.writeAlu_vf]
    exact flagByte_eq_zero_or_one _
  | draw =>
    rw [State.advance_reg, show (15 : RegIdx) = vf from rfl, State.reg_setReg_same]
    exact flagByte_eq_zero_or_one _
  | jump hw hp hf | skip hp hf | reg hp hd hf | index hp hf | store hp hf => exact absurd hflag (by simp [hf])
  | wait x | delay x | sound x | clear | load hv | call nnn h | ret k => exact absurd hflag (by simp [setsFlag])

/-- A fault halts the engine (R172). -/
theorem Traps.halted_trapped {s : State} {i : Instr} {c : FaultCause} (h : Traps s i c) :
    (s.trapped i c).halted = true :=
  bne_iff_ne.mpr h.kind_ne_none

/-- Settles O21: a fault leaves V alone; else each shape of effect writes its destinations, and its flag last. -/
theorem registersAndFlagChangeOnlyAsNamed : Obligations.RegistersAndFlagChangeOnlyAsNamed := by
  intro i s t h
  rcases exec_cases h with ⟨c, hc, rfl⟩ | ⟨_, hd⟩
  · exact ⟨fun r _ => s.setFault_reg _ r, fun _ _ ht => absurd hc.halted_trapped (by simp [ht])⟩
  · exact ⟨hd.regsUnchangedBut, fun hflag _ _ => hd.flag hflag⟩

end Sys2Proof.Machine
end

section
/-! Two runs that differ in ST and FAULT (R19, R30, R174, R181). -/

namespace Sys2Proof.Machine

open Sys2Proof

/-- `s` with other values in FAULT and ST. -/
def State.hide (s : State) (f : FaultRecord) (b : Byte) : State := (s.setFault f).setSt b

/-- `i` comes out the same from `s` and from `s` with `f` in FAULT and `b` in ST, but for FAULT and ST. -/
def Oblivious (i : Instr) (s : State) (f : FaultRecord) (b : Byte) : Prop :=
  ∃ t f' b', exec i s = .next t ∧ exec i (s.hide f b) = .next (t.hide f' b')

/-- A range check reads I alone. -/
theorem withRange_hide (s : State) (f : FaultRecord) (b : Byte) (i : Instr) (len : Nat) (done : State) :
    ∃ t f' b', withRange i len s done = .next t ∧
      withRange i len (s.hide f b) (done.hide f b) = .next (t.hide f' b') := by
  by_cases h : len = 0 ∨ s.i.toNat + len ≤ 4096
  · exact ⟨_, f, b, withRange_ok h, withRange_ok (s := s.hide f b) h⟩
  · exact ⟨_, _, b, withRange_fault h, withRange_fault (s := s.hide f b) h⟩

theorem oblivious_ret (s : State) (f : FaultRecord) (b : Byte) : Oblivious .ret s f b := by
  by_cases h : s.sp.val = 0
  · exact ⟨_, _, b, exec_ret_empty h, exec_ret_empty (s := s.hide f b) h⟩
  · have hsp : s.sp.val < 17 := s.sp.isLt
    have hk : s.sp.val = (⟨s.sp.val - 1, by omega⟩ : Fin 16).val + 1 :=
      (Nat.sub_add_cancel (Nat.pos_of_ne_zero h)).symm
    exact ⟨_, f, b, exec_ret_of_succ hk, exec_ret_of_succ (s := s.hide f b) hk⟩

theorem oblivious_call (nnn : Addr12) (s : State) (f : FaultRecord) (b : Byte) : Oblivious (.call nnn) s f b := by
  have hsp : s.sp.val < 17 := s.sp.isLt
  by_cases h : s.sp.val < 16
  · exact ⟨_, f, b, exec_call_of_lt nnn h, exec_call_of_lt nnn (s := s.hide f b) h⟩
  · have hfull : s.sp.val = 16 := by omega
    exact ⟨_, _, b, exec_call_full nnn hfull, exec_call_full nnn (s := s.hide f b) hfull⟩

theorem exec_ldVxK_of_some (x : RegIdx) {s : State} {k : Fin 16} (h : s.firstKey = some k) :
    exec (.ldVxK x) s = .next (s.setReg x (BitVec.ofNat 8 k.val)).advance := by
  simp only [exec, execLdVxK, h]

theorem exec_ldVxK_of_none (x : RegIdx) {s : State} (h : s.firstKey = none) : exec (.ldVxK x) s = .next s := by
  simp only [exec, execLdVxK, h]

theorem oblivious_ldVxK (x : RegIdx) (s : State) (f : FaultRecord) (b : Byte) : Oblivious (.ldVxK x) s f b := by
  cases h : s.firstKey with
  | some k => exact ⟨_, f, b, exec_ldVxK_of_some x h, exec_ldVxK_of_some x (s := s.hide f b) h⟩
  | none => exact ⟨_, f, b, exec_ldVxK_of_none x h, exec_ldVxK_of_none x (s := s.hide f b) h⟩

theorem exec_oblivious (i : Instr) (s : State) (f : FaultRecord) (b : Byte) : Oblivious i s f b := by
  cases i with
  | ret => exact oblivious_ret s f b
  | call nnn => exact oblivious_call nnn s f b
  | ldVxK x => exact oblivious_ldVxK x s f b
  | drw x y n => exact withRange_hide s f b _ _ (s.afterDrw x y n)
  | ldB x => exact withRange_hide s f b _ _ (s.storeAtI (bcdDigits (s.reg x))).advance
  | ldMemVx x => exact withRange_hide s f b _ _ (s.storeAtI (s.regsTo x)).advance
  | ldVxMem x => exact withRange_hide s f b _ _ (s.setRegs (s.regsLoadedTo x)).advance
  | ldStVx x => exact ⟨_, f, s.reg x, rfl, rfl⟩
  | _ => exact ⟨_, f, b, rfl, rfl⟩

/-- Settles O22: the two runs end in states that differ in FAULT and ST alone. -/
theorem soundTimerAndFaultRecordAreInvisible : Obligations.SoundTimerAndFaultRecordAreInvisible := by
  intro i s f b
  obtain ⟨t, f', b', e, e'⟩ := exec_oblivious i s f b
  exact ⟨t, _, e, e', rfl, ((t.setFault_unchangedBut f').mono (by decide)).trans
    ((State.setSt_unchangedBut _ b').mono (by decide))⟩

end Sys2Proof.Machine
end

section
/-! The Step and the transaction (spec 40_step_cycle.md, 60_exceptions.md): what is fetched and run, which faults are
taken, and the halted state. -/

namespace Sys2Proof.Machine

open Sys2Proof

/-! ### The fetched word as a number -/

theorem State.wordAtPc_eq_toNat (s : State) :
    (wordOfBytes (s.byte s.pc.toNat) (s.byte (s.pc.toNat + 1))).toNat = s.wordAtPc :=
  toNat_wordOfBytes _ _

theorem State.fetchWord_eq_some_iff {s : State} {op : Word} :
    s.fetchWord = some op ↔ s.pc.toNat ≤ 0xFFE ∧ op.toNat = s.wordAtPc := by
  constructor
  · intro h
    obtain ⟨hp, rfl⟩ := State.fetchWord_eq_some h
    exact ⟨hp, s.wordAtPc_eq_toNat⟩
  · rintro ⟨hp, hop⟩
    rw [s.fetchWord_of_le hp, BitVec.eq_of_toNat_eq (hop.trans s.wordAtPc_eq_toNat.symm)]

/-! ### What a Step runs -/

theorem stepInput_of_idle {s : State} (h : s.pending = []) : s.stepInput = some (Config.rndByte s.draws, []) := by
  simp only [State.stepInput, h]

theorem stepInput_of_step {s : State} {r : Byte} {rest : List HostOp} (h : s.pending = .step r :: rest) :
    s.stepInput = some (r, rest) := by
  simp only [State.stepInput, h]

/-- The state in which a Step with this input runs its instruction. -/
def State.inStep (s : State) (r : Byte) (rest : List HostOp) : State := (s.setPending rest).sampleInput r

theorem State.inStep_unchangedBut (s : State) (r : Byte) (rest : List HostOp) :
    UnchangedBut [.inputs] s (s.inStep r rest) :=
  s.inputs_unchangedBut r (s.draws + 1) rest

theorem step_of_running {s : State} {r : Byte} {rest : List HostOp} (hin : s.stepInput = some (r, rest))
    (hh : s.halted = false) : step s = cycle (s.inStep r rest) :=
  (step_of_stepInput hin).trans (stepOp_of_running r hh)

theorem step_runs {s : State} {r : Byte} {rest : List HostOp} {op : Word} {i : Instr}
    (hin : s.stepInput = some (r, rest)) (hh : s.halted = false) (hf : s.fetchWord = some op)
    (hd : decode op = some i) :
    step s = exec i (s.inStep r rest) :=
  (step_of_running hin hh).trans (cycle_of_decode (s := s.inStep r rest) hf hd)

/-- Settles O7: the word at PC is what is fetched, with either input. -/
theorem stepRunsTheDecodedInstruction : Obligations.StepRunsTheDecodedInstruction := by
  intro s op i hh hp hop hd
  have hf := State.fetchWord_eq_some_iff.mpr ⟨hp, hop⟩
  refine ⟨fun hidle => ?_, fun r rest hstep => step_runs (stepInput_of_step hstep) hh hf hd⟩
  rw [step_runs (stepInput_of_idle hidle) hh hf hd, ← hidle]
  rfl

/-! ### The word the host places -/

/-- A byte list of length 2 stored at `a` is read back. -/
theorem Memory.read_writeList_pair (p : Config.Params) (m : Memory) {a : Nat} (ha : a ≤ 0xFFE) (hi lo : Byte) :
    (m.writeList p a [hi, lo]).read p a = hi ∧ (m.writeList p a [hi, lo]).read p (a + 1) = lo := by
  have h := fun b => Memory.read_writeList (p := p) m a b [hi, lo] 
    (by simp only [List.length_cons, List.length_nil, Config.memSize]; omega)
  constructor
  · rw [h, if_pos (by simp), Nat.sub_self]
    rfl
  · rw [h, if_pos (by simp), Nat.add_sub_cancel_left]
    rfl

theorem State.fetchWord_withFetchWord (s : State) {w : Nat} (hw : w < 0x10000) :
    (s.withFetchWord 16 w).fetchWord = some (BitVec.ofNat 16 w) := by
  have hp : (s.withFetchWord 16 w).pc.toNat ≤ 0xFFE := by
    show (if rangeOk s.cfg.oorPolicy s.pc.toNat 2 then s.pc else BitVec.ofNat 16 Config.progBase).toNat ≤ 0xFFE
    split
    · next h =>
      rw [rangeOk_iff] at h
      omega
    · decide
  obtain ⟨hhi, hlo⟩ := Memory.read_writeList_pair s.cfg s.mem hp ((BitVec.ofNat 16 (w % 2 ^ 16)).extractLsb' 8 8)
    ((BitVec.ofNat 16 (w % 2 ^ 16)).extractLsb' 0 8)
  rw [State.fetchWord_of_le _ hp]
  refine congrArg some ((congrArg₂ wordOfBytes hhi hlo).trans ?_)
  rw [wordOfBytes_extract, Nat.mod_eq_of_lt (show w < 2 ^ 16 from hw)]

theorem decode_of_decodeTableWord {w : Nat} {i : Instr} (hw : w < 0x10000) (h : decodeTableWord 16 w = some i) :
    decode (BitVec.ofNat 16 w) = some i := by
  have e := decodeBytes_bytesOfWord (BitVec.ofNat 16 w) []
  rw [List.append_nil] at e
  rw [decodeTableWord, tableBytes, Nat.mod_eq_of_lt (show w < 2 ^ 16 from hw), e] at h
  cases hd : decode (BitVec.ofNat 16 w) with
  | none => rw [hd] at h; exact absurd h nofun
  | some j => rw [hd] at h; exact h

/-- Settles O8: the placed bytes are fetched back. -/
theorem placedWordRunsNext : Obligations.PlacedWordRunsNext := fun s w _ hw h =>
  step_runs (s := s.withFetchWord 16 w) (stepInput_of_idle rfl) rfl (s.fetchWord_withFetchWord hw)
    (decode_of_decodeTableWord hw h)

/-! ### The faults of a Step before its instruction -/

theorem exists_of_stepInput_ne_none {s : State} (h : s.stepInput ≠ none) :
    ∃ r rest, s.stepInput = some (r, rest) := by
  obtain ⟨⟨r, rest⟩, e⟩ := Option.ne_none_iff_exists'.mp h
  exact ⟨r, rest, e⟩

theorem State.inStep_setFault_unchangedBut (s : State) (r : Byte) (rest : List HostOp) (f : FaultRecord) :
    UnchangedBut [.fault, .inputs] s ((s.inStep r rest).setFault f) :=
  ((s.inStep_unchangedBut r rest).mono (by decide)).trans ((State.setFault_unchangedBut _ f).mono (by decide))

/-- Settles O9: the Step ends at its fetch. -/
theorem fetchOutOfRangeFaults : Obligations.FetchOutOfRangeFaults := by
  intro s hh hin hp
  obtain ⟨r, rest, hin⟩ := exists_of_stepInput_ne_none hin
  exact ⟨_, (step_of_running hin hh).trans (cycle_of_no_fetch (State.fetchWord_of_gt (s.inStep r rest) hp)), rfl, rfl,
    s.inStep_setFault_unchangedBut r rest _⟩

/-- Settles O10: the Step ends at its decoding. -/
theorem unsupportedOpcodeFaults : Obligations.UnsupportedOpcodeFaults := by
  intro s op hh hin hp hop hwf
  obtain ⟨r, rest, hin⟩ := exists_of_stepInput_ne_none hin
  have hf := State.fetchWord_eq_some_iff.mpr ⟨hp, hop⟩
  have hd := (unsupportedWordsAreExactlyTheListed op).mpr hwf
  exact ⟨_, (step_of_running hin hh).trans (cycle_of_unsupported (s := s.inStep r rest) hf hd), rfl, rfl,
    s.inStep_setFault_unchangedBut r rest _⟩

/-! ### What a Step of a running engine leads to -/

/-- R87: from a running engine with this input, each way a Step ends. -/
inductive StepEnds (s : State) (r : Byte) (rest : List HostOp) : State → Prop
  | noFetch (hp : 0xFFE < s.pc.toNat) :
    StepEnds s r rest ((s.inStep r rest).setFault ⟨.resourceExhausted, .fetchOutOfRange, 0, s.pc⟩)
  | unsupported {op : Word} (hf : s.fetchWord = some op) (hd : decode op = none) :
    StepEnds s r rest ((s.inStep r rest).setFault ⟨.unsupportedOpcode, .illegalInstruction, op, s.pc⟩)
  | trapped {i : Instr} {c : FaultCause} (hf : s.fetchWord = some (encode i)) (hc : Traps s i c) :
    StepEnds s r rest ((s.inStep r rest).trapped i c)
  | done {i : Instr} {t : State} (hf : s.fetchWord = some (encode i)) (hn : ∀ c, ¬Traps s i c)
    (hd : Done (s.inStep r rest) i t) : StepEnds s r rest t

theorem stepEnds_of_stepOp {s t : State} {r : Byte} {rest : List HostOp} (hh : s.halted = false)
    (h : stepOp r (s.setPending rest) = .next t) : StepEnds s r rest t := by
  rcases stepOp_cases r (s.setPending rest) with
    ⟨hh', _⟩ | ⟨_, hp, e⟩ | ⟨op, _, hf, hd, e⟩ | ⟨op, i, _, hf, hd, e⟩
  · exact absurd hh (by simpa using hh')
  · rw [e] at h
    cases h
    exact .noFetch hp
  · rw [e] at h
    cases h
    exact .unsupported hf hd
  · rw [e] at h
    rw [← encodeOfDecodeIsTheWord op i hd] at hf
    rcases exec_cases h with ⟨c, hc, rfl⟩ | ⟨hn, hdone⟩
    · exact .trapped hf hc
    · exact .done hf hn hdone

theorem stepEnds_of_step {s t : State} {r : Byte} {rest : List HostOp} (hh : s.halted = false)
    (hin : s.stepInput = some (r, rest)) (h : step s = .next t) : StepEnds s r rest t :=
  stepEnds_of_stepOp hh ((step_of_stepInput hin).symm.trans h)

/-- No effect without fault writes FAULT. -/
theorem Done.fault_eq {s t : State} {i : Instr} (h : Done s i t) : t.fault = s.fault := by
  cases h <;> rfl

theorem Done.halted_eq {s t : State} {i : Instr} (h : Done s i t) : t.halted = s.halted := by
  rw [State.halted, h.fault_eq, State.halted]

theorem Traps.ne_noCause {s : State} {i : Instr} {c : FaultCause} (h : Traps s i c) : c ≠ .noCause :=
  fun e => h.kind_ne_none (e ▸ rfl)

/-- Settles O11: a Step that ends halted ended in a fault, which writes FAULT alone. -/
theorem faultingStepWritesOnlyTheFaultRecord : Obligations.FaultingStepWritesOnlyTheFaultRecord := by
  intro s t r rest hh hin h ht
  have hret : t.stepReturn = .error t.fault := if_pos ht
  cases stepEnds_of_step hh hin h with
  | noFetch hp => exact ⟨.fetchOutOfRange, 0, nofun, (if_neg (by omega)).symm, rfl, hret⟩
  | unsupported hf hd =>
    obtain ⟨hp, hop⟩ := State.fetchWord_eq_some_iff.mp hf
    exact ⟨.illegalInstruction, _, nofun, hop.trans (if_pos hp).symm, rfl, hret⟩
  | trapped hf hc =>
    obtain ⟨hp, hop⟩ := State.fetchWord_eq_some_iff.mp hf
    exact ⟨_, _, hc.ne_noCause, hop.trans (if_pos hp).symm, rfl, hret⟩
  | done hf hn hd => exact absurd ht (by rw [hd.halted_eq]; simp [State.inStep, hh])

/-! ### The digits of a word -/

theorem wordA_div {g : Nat} {nnn : Addr12} : wordA g nnn / 0x1000 = g := by
  have := nnn.isLt
  rw [wordA]
  omega

theorem wordXK_div {g : Nat} {x : RegIdx} {kk : Byte} : wordXK g x kk / 0x1000 = g := by
  have := kk.isLt
  rw [wordXK]
  omega

theorem wordXY_div {g n : Nat} {x y : RegIdx} (hn : n < 16) : wordXY g x y n / 0x1000 = g := by
  rw [wordXY]
  omega

theorem wordXY_mod {g n : Nat} {x y : RegIdx} (hn : n < 16) : wordXY g x y n % 0x10 = n := by
  rw [wordXY]
  omega

theorem wordX_div {g sub : Nat} {x : RegIdx} (hs : sub < 256) : wordX g x sub / 0x1000 = g := by
  rw [wordX]
  omega

theorem wordX_mod {g sub : Nat} {x : RegIdx} (hs : sub < 256) : wordX g x sub % 0x100 = sub := by
  rw [wordX]
  omega

theorem wordX_nibble {g sub : Nat} {x : RegIdx} (hs : sub < 256) : wordX g x sub / 0x100 % 0x10 = x.val := by
  rw [wordX]
  omega

/-! ### The table of faults (R171) -/

/-- R171, the rows of the instructions, for the word `w`. -/
def InstrRow (s : State) (w : Nat) : Prop :=
  (w / 0x1000 = 0x2 ∧ s.sp.val = 16) ∨ (w = 0x00EE ∧ s.sp.val = 0) ∨ reachesPastMemory s.i.toNat w

/-- R171 for a running engine. -/
def TableOfFaults (s : State) : Prop :=
  0xFFF ≤ s.pc.toNat ∨
  (s.pc.toNat ≤ 0xFFE ∧ (WellFormed.word (BitVec.ofNat 16 s.wordAtPc) = false ∨ InstrRow s s.wordAtPc))

/-- A word whose leading digit no row of an instruction has is in none. -/
theorem not_instrRow_of_lead {s : State} {w g : Nat} (hg : w / 0x1000 = g) (hrows : g ∉ [0, 2, 0xD, 0xF]) :
    ¬InstrRow s w := by
  simp only [List.mem_cons, List.not_mem_nil, or_false, not_or] at hrows
  rw [InstrRow, reachesPastMemory]
  omega

/-- So with the leading digit F and another low byte. -/
theorem not_instrRow_of_low {s : State} {w sub : Nat} (hg : w / 0x1000 = 0xF) (hs : w % 0x100 = sub)
    (hrows : sub ∉ [0x33, 0x55, 0x65]) : ¬InstrRow s w := by
  simp only [List.mem_cons, List.not_mem_nil, or_false, not_or] at hrows
  rw [InstrRow, reachesPastMemory]
  omega

/-- The row of the two block transfers. -/
theorem instrRow_block {s : State} {w : Nat} {x : RegIdx} (hg : w / 0x1000 = 0xF)
    (hs : w % 0x100 = 0x55 ∨ w % 0x100 = 0x65) (hx : w / 0x100 % 0x10 = x.val) :
    InstrRow s w ↔ 4095 < s.i.toNat + x.val := by
  have hne : w ≠ 0x00EE := by omega
  rcases hs with hs | hs
  · simp [InstrRow, reachesPastMemory, hg, hs, hx, hne]
  · simp [InstrRow, reachesPastMemory, hg, hs, hx, hne]

/-- The faults of an instruction are the table's rows for its word. -/
theorem exists_traps_iff (s : State) (i : Instr) : (∃ c, Traps s i c) ↔ InstrRow s (wordNumber i) := by
  have never : ∀ {i : Instr}, (∀ c, ¬Traps s i c) → ¬InstrRow s (wordNumber i) →
      ((∃ c, Traps s i c) ↔ InstrRow s (wordNumber i)) := fun hn hr => iff_of_false (not_exists.mpr hn) hr
  cases i with
  | ret => simp [Traps, InstrRow, wordNumber, reachesPastMemory]
  | call nnn =>
    have hd : wordA 2 nnn / 0x1000 = 2 := wordA_div
    simp only [Traps, exists_eq_left, InstrRow, wordNumber, reachesPastMemory]
    omega
  | drw x y n =>
    have hd := wordXY_div (g := 0xD) (x := x) (y := y) n.isLt
    have hm := wordXY_mod (g := 0xD) (x := x) (y := y) n.isLt
    simp only [Traps, exists_eq_left, InstrRow, wordNumber, reachesPastMemory]
    omega
  | ldB x =>
    have hd : wordX 0xF x 0x33 / 0x1000 = 0xF := wordX_div (by decide)
    have hm : wordX 0xF x 0x33 % 0x100 = 0x33 := wordX_mod (by decide)
    simp only [Traps, exists_eq_left, InstrRow, wordNumber, reachesPastMemory]
    omega
  | ldMemVx x | ldVxMem x =>
    rw [wordNumber, instrRow_block (wordX_div (by decide)) (by simp [wordX_mod]) (wordX_nibble (by decide))]
    simp only [Traps, exists_eq_left]
  | cls => exact never (fun _ => id) (by simp [InstrRow, wordNumber, reachesPastMemory])
  | jp nnn | ldI nnn | jpV0 nnn => exact never (fun _ => id) (not_instrRow_of_lead wordA_div (by decide))
  | seImm x kk | sneImm x kk | ldImm x kk | addImm x kk | rnd x kk =>
    exact never (fun _ => id) (not_instrRow_of_lead wordXK_div (by decide))
  | seReg x y | sneReg x y | ldReg x y | orReg x y | andReg x y | xorReg x y | addReg x y | subReg x y | shr x y
  | subnReg x y | shl x y =>
    exact never (fun _ => id) (not_instrRow_of_lead (wordXY_div (by decide)) (by decide))
  | skp x | sknp x => exact never (fun _ => id) (not_instrRow_of_lead (wordX_div (by decide)) (by decide))
  | ldVxDt x | ldVxK x | ldDtVx x | ldStVx x | addI x | ldF x =>
    exact never (fun _ => id) (not_instrRow_of_low (wordX_div (by decide)) (wordX_mod (by decide)) (by decide))

theorem tableOfFaults_iff {s : State} {i : Instr} (hf : s.fetchWord = some (encode i)) :
    TableOfFaults s ↔ ∃ c, Traps s i c := by
  obtain ⟨hp, hop⟩ := State.fetchWord_eq_some_iff.mp hf
  have hword : BitVec.ofNat 16 s.wordAtPc = encode i := by rw [← hop, BitVec.ofNat_toNat, BitVec.setWidth_eq]
  have hwf : ¬WellFormed.word (encode i) = false := by
    rw [← unsupportedWordsAreExactlyTheListed, decodeOfEncodeIsTheInstruction i]
    nofun
  rw [TableOfFaults, hword, or_iff_right (by omega), and_iff_right hp, or_iff_right hwf, exists_traps_iff,
    ← toNat_encode, hop]

/-- Settles O12: a fetch that fails, a word of no row, or an instruction in a row of the table. -/
theorem stepFaultsExactlyWhenTheTableSays : Obligations.StepFaultsExactlyWhenTheTableSays := by
  intro s t hh hin h
  obtain ⟨r, rest, hin⟩ := exists_of_stepInput_ne_none hin
  change t.halted = true ↔ TableOfFaults s
  cases stepEnds_of_step hh hin h with
  | noFetch hp => exact iff_of_true rfl (.inl hp)
  | @unsupported op hf hd =>
    obtain ⟨hp, hop⟩ := State.fetchWord_eq_some_iff.mp hf
    have hwf := (unsupportedWordsAreExactlyTheListed op).mp hd
    exact iff_of_true rfl (.inr ⟨hp, .inl (by rwa [← hop, BitVec.ofNat_toNat, BitVec.setWidth_eq])⟩)
  | trapped hf hc => exact iff_of_true hc.halted_trapped ((tableOfFaults_iff hf).mpr ⟨_, hc⟩)
  | done hf hn hd =>
    refine iff_of_false (fun ht => ?_) fun htable => ?_
    · exact absurd (hd.halted_eq.symm.trans ht) (by simp [State.inStep, hh])
    · obtain ⟨c, hc⟩ := (tableOfFaults_iff hf).mp htable
      exact hn c hc

/-! ### Every transaction answers; the halted state -/

theorem stepOp_answers (r : Byte) (s : State) : ∃ t, stepOp r s = .next t := by
  rcases stepOp_cases r s with ⟨_, e⟩ | ⟨_, _, e⟩ | ⟨_, _, _, _, e⟩ | ⟨_, i, _, _, _, e⟩
  · exact ⟨_, e⟩
  · exact ⟨_, e⟩
  · exact ⟨_, e⟩
  · rcases exec_answers i (s.sampleInput r) with ⟨_, _, e'⟩ | ⟨_, t, e', _⟩
    · exact ⟨_, e.trans e'⟩
    · exact ⟨t, e.trans e'⟩

/-- Settles O13: each of the six operations answers a next state. -/
theorem everyTransactionAnswersANextState : Obligations.EveryTransactionAnswersANextState := by
  intro s
  rcases step_cases s with ⟨_, e⟩ | ⟨op, rest, _, e⟩
  · rw [e]
    exact stepOp_answers _ s
  · rw [e]
    cases op with
    | step r => exact stepOp_answers r _
    | reset | load rom | tick | keyWrite keys | stateRead => exact ⟨_, rfl⟩

/-- Settles O14: by induction on the number of Steps; one Step changes nothing. -/
theorem haltedEngineStaysHalted : Obligations.HaltedEngineStaysHalted := by
  intro n s hh hp
  have hstep : step s = .next s := (step_of_idle hp).trans (stepOp_of_halted _ hh)
  refine ⟨?_, if_pos hh⟩
  induction n with
  | zero => rfl
  | succ n ih => exact (run_succ_of_next core n hstep).trans ih

/-- Settles O15: no other operation writes FAULT of a halted engine. -/
theorem onlyResetAndLoadLeaveHalted : Obligations.OnlyResetAndLoadLeaveHalted := by
  intro s t hh h ht
  have kept : t.fault = s.fault → False := fun e => by
    rw [State.halted, e] at ht
    exact absurd hh (by simp [State.halted, ht])
  rcases step_cases s with ⟨_, e⟩ | ⟨op, rest, hp, e⟩
  · rw [e, stepOp_of_halted _ hh] at h
    cases h
    exact (kept rfl).elim
  · rw [e] at h
    cases op with
    | reset => exact .inl ⟨rest, hp⟩
    | load rom => exact .inr ⟨rom, rest, hp⟩
    | step r =>
      rw [perform, stepOp_of_halted r (s := s.setPending rest) hh] at h
      cases h
      exact (kept rfl).elim
    | tick | keyWrite keys | stateRead =>
      cases h
      exact (kept rfl).elim

end Sys2Proof.Machine
end

section
/-! What every transaction keeps: the parameters (R4, R137), the invariant (R15, R30, R90, R171, R173) and the self-jump
(R160). -/

namespace Sys2Proof.Machine

open Sys2Proof

/-! ### The parameters -/

theorem params_not_mem_mayWrite (i : Instr) : Part.params ∉ mayWrite i := by cases i <;> simp [mayWrite]

theorem exec_cfg {i : Instr} {s t : State} (h : exec i s = .next t) : t.cfg = s.cfg :=
  onlyNamedInstructionsWriteAPart i s t h .params (params_not_mem_mayWrite i)

theorem stepOp_cfg {r : Byte} {s t : State} (h : stepOp r s = .next t) : t.cfg = s.cfg := by
  rcases stepOp_cases r s with ⟨_, e⟩ | ⟨_, _, e⟩ | ⟨_, _, _, _, e⟩ | ⟨_, i, _, _, _, e⟩
  · cases e.symm.trans h
    rfl
  · cases e.symm.trans h
    rfl
  · cases e.symm.trans h
    rfl
  · exact exec_cfg (s := s.sampleInput r) (e.symm.trans h)

/-- Settles O18: an instruction writes none, and no operation of the host does. -/
theorem noTransactionChangesTheParameters : Obligations.NoTransactionChangesTheParameters := by
  intro s t h
  rcases step_cases s with ⟨_, e⟩ | ⟨op, rest, _, e⟩
  · exact stepOp_cfg (e.symm.trans h)
  · have hop := e.symm.trans h
    cases op with
    | step r => exact stepOp_cfg (s := s.setPending rest) hop
    | reset | load rom | tick | keyWrite keys | stateRead =>
      cases hop
      rfl

/-! ### The invariant in a Step -/

theorem Done.mem_wf {s t : State} {i : Instr} (h : Done s i t) (hm : s.mem.wf s.cfg = true) :
    t.mem.wf t.cfg = true := by
  cases h with
  | store hp hf => exact Memory.wf_writeList _ _ hm
  | _ => exact hm

theorem Done.stack_le {s t : State} {i : Instr} (h : Done s i t) (hpc : s.pc.toNat ≤ 0xFFE)
    (hs : ∀ k : Fin 16, (s.stackAt k).toNat ≤ maxPushed) (k : Fin 16) : (t.stackAt k).toNat ≤ maxPushed := by
  cases h with
  | call nnn hlt =>
    rw [State.setPc_stackAt, State.stackAt_push]
    split
    · exact hpc
    · exact hs k
  | _ => exact hs k

/-- A PC at which a word was fetched, two or four on, is within R15's bound. -/
theorem pc_add_le {pc : Word} {d : Word} (hpc : pc.toNat ≤ 0xFFE) (hd : d.toNat ≤ 4) : (pc + d).toNat ≤ maxPc := by
  rw [BitVec.toNat_add, maxPc]
  omega

theorem Done.pc_le {s t : State} {i : Instr} (h : Done s i t) (hpc : s.pc.toNat ≤ 0xFFE)
    (hs : ∀ k : Fin 16, (s.stackAt k).toNat ≤ maxPushed) : t.pc.toNat ≤ maxPc := by
  cases h with
  | wait x => exact hpc.trans (by decide)
  | jump hw hp hf => exact hw
  | skip hp hf =>
    rw [State.skipIf_pc]
    split
    · exact pc_add_le hpc (by decide)
    · exact pc_add_le hpc (by decide)
  | call nnn hlt => exact extNnn_le_maxPc nnn
  | ret k => exact pc_add_le (hs k) (by decide)
  | reg | alu | index | delay x | sound x | clear | draw | store | load => exact pc_add_le hpc (by decide)

theorem faultCoherent_of_clear {s : State} (h : s.fault = FaultRecord.clear) : s.faultCoherent := by
  rw [State.faultCoherent, h]
  rfl

/-- A coherent record of an engine that runs is the clear one. -/
theorem fault_eq_clear {s : State} (h : s.faultCoherent) (hh : s.halted = false) : s.fault = FaultRecord.clear := by
  have hk : s.fault.kind = .none := by simpa [State.halted] using hh
  unfold State.faultCoherent at h
  split at h
  · exact h
  all_goals exact absurd (h.1.symm.trans hk) nofun

theorem Done.inv {s t : State} {i : Instr} (h : Done s i t) (hi : s.Inv) (hh : s.halted = false)
    (hpc : s.pc.toNat ≤ 0xFFE) : t.Inv where
  mem := h.mem_wf hi.mem
  pc := h.pc_le hpc hi.stack
  stack := h.stack_le hpc hi.stack
  fault := faultCoherent_of_clear (h.fault_eq.trans (fault_eq_clear hi.fault hh))

/-- Taking a fault keeps the invariant if the record taken is coherent. -/
theorem State.Inv.setFault {s : State} (hi : s.Inv) {f : FaultRecord} (hf : (s.setFault f).faultCoherent) :
    (s.setFault f).Inv := ⟨hi.mem, hi.pc, hi.stack, hf⟩

theorem Traps.reachesPastMemory {s : State} {i : Instr} (h : Traps s i .memoryOutOfRange) :
    reachesPastMemory s.i.toNat (encode i).toNat := by
  rw [toNat_encode]
  cases i with
  | drw x y n =>
    obtain ⟨_, hne, hlast⟩ := h
    exact .inl ⟨wordXY_div n.isLt, by rwa [wordNumber, wordXY_mod n.isLt], by rwa [wordNumber, wordXY_mod n.isLt]⟩
  | ldB x => exact .inr (.inl ⟨wordX_div (by decide), wordX_mod (by decide), h.2⟩)
  | ldMemVx x | ldVxMem x =>
    refine .inr (.inr ⟨wordX_div (by decide), by simp [wordNumber, wordX_mod], ?_⟩)
    rw [wordNumber, wordX_nibble (by decide)]
    exact h.2
  | ret | call nnn => exact absurd h.1 nofun
  | _ => exact h.elim

/-- A fault of an instruction meets the condition of its cause (R171). -/
theorem trapped_faultCoherent {s : State} {i : Instr} {c : FaultCause} (hf : s.fetchWord = some (encode i))
    (hc : Traps s i c) : (s.trapped i c).faultCoherent := by
  cases i with
  | ret =>
    obtain ⟨rfl, hsp⟩ := hc
    exact ⟨rfl, rfl, hf, hsp, rfl⟩
  | call nnn =>
    obtain ⟨rfl, hsp⟩ := hc
    refine ⟨rfl, rfl, hf, hsp, ?_⟩
    rw [State.trapped, State.setFault_fault, toNat_encode, wordNumber, wordA_div]
  | drw x y n | ldB x | ldMemVx x | ldVxMem x =>
    obtain rfl := hc.1
    exact ⟨rfl, rfl, hf, hc.reachesPastMemory⟩
  | _ => exact hc.elim

theorem State.Inv.inStep {s : State} (hi : s.Inv) (r : Byte) (rest : List HostOp) : (s.inStep r rest).Inv :=
  ⟨hi.mem, hi.pc, hi.stack, hi.fault⟩

theorem StepEnds.inv {s t : State} {r : Byte} {rest : List HostOp} (h : StepEnds s r rest t) (hi : s.Inv)
    (hh : s.halted = false) : t.Inv := by
  cases h with
  | noFetch hp => exact (hi.inStep r rest).setFault ⟨rfl, rfl, rfl, hp⟩
  | unsupported hf hd =>
    exact (hi.inStep r rest).setFault ⟨rfl, rfl, hf, (unsupportedWordsAreExactlyTheListed _).mp hd⟩
  | trapped hf hc => exact (hi.inStep r rest).setFault (trapped_faultCoherent (s := s.inStep r rest) hf hc)
  | done hf hn hd => exact hd.inv (hi.inStep r rest) hh (State.fetchWord_eq_some_iff.mp hf).1

theorem stepOp_inv {s t : State} {r : Byte} (hi : s.Inv) (h : stepOp r s = .next t) : t.Inv := by
  cases hh : s.halted with
  | true =>
    cases (stepOp_of_halted r hh).symm.trans h
    exact hi
  | false => exact StepEnds.inv (stepEnds_of_stepOp (rest := s.pending) hh h) hi hh

theorem perform_inv {s t : State} {op : HostOp} (hi : s.Inv) (h : perform op s = .next t) : t.Inv := by
  cases op with
  | step r => exact stepOp_inv hi h
  | reset =>
    cases h
    have hr := resetWith_inv s.cfg
    exact ⟨hr.mem, hr.pc, hr.stack, hr.fault⟩
  | load rom =>
    cases h
    have hr := resetWith_inv s.cfg
    exact ⟨s.loadOp_wf rom, hr.pc, hr.stack, hr.fault⟩
  | tick | keyWrite keys | stateRead =>
    cases h
    exact ⟨hi.mem, hi.pc, hi.stack, hi.fault⟩

/-- Settles O17: operation by operation; a Step by the way it ends. -/
theorem everyTransactionKeepsTheInvariant : Obligations.EveryTransactionKeepsTheInvariant := by
  intro s t hi h
  rcases step_cases s with ⟨_, e⟩ | ⟨op, rest, _, e⟩
  · exact stepOp_inv hi (e.symm.trans h)
  · have hp : (s.setPending rest).Inv := ⟨hi.mem, hi.pc, hi.stack, hi.fault⟩
    exact perform_inv hp (e.symm.trans h)

/-! ### The self-jump -/

theorem State.selfJump_iff (s : State) :
    s.selfJump = true ↔ s.halted = false ∧ s.pc.toNat ≤ 0xFFE ∧ s.wordAtPc = 0x1000 + s.pc.toNat := by
  simp [State.selfJump, and_assoc]

/-- The word of a self-jump is JP to its own address. -/
theorem fetchWord_of_selfJump {s : State} (h : s.selfJump = true) :
    ∃ nnn : Addr12, extNnn nnn = s.pc ∧ s.fetchWord = some (encode (.jp nnn)) := by
  obtain ⟨_, hp, hw⟩ := s.selfJump_iff.mp h
  have hn : (BitVec.ofNat 12 s.pc.toNat).toNat = s.pc.toNat := Nat.mod_eq_of_lt (by omega)
  refine ⟨BitVec.ofNat 12 s.pc.toNat, BitVec.eq_of_toNat_eq ((extNnn_toNat _).trans hn), ?_⟩
  rw [State.fetchWord_eq_some_iff, toNat_encode, hw, wordNumber, wordA, hn]
  exact ⟨hp, rfl⟩

/-- A Step at a self-jump takes its input and does nothing else. -/
theorem stepOp_of_selfJump (r : Byte) {s : State} (h : s.selfJump = true) : stepOp r s = .next (s.sampleInput r) := by
  obtain ⟨hh, _, _⟩ := s.selfJump_iff.mp h
  obtain ⟨nnn, hpc, hf⟩ := fetchWord_of_selfJump h
  rw [stepOp_of_running r hh,
    cycle_of_decode (s := s.sampleInput r) hf (decodeOfEncodeIsTheInstruction _), exec_jp, hpc]
  rfl

/-- Settles O55: a Step there changes inputs alone, and of the other operations only Reset and Load write PC, memory or
FAULT. -/
theorem selfJumpIsLeftOnlyByResetOrLoad : Obligations.SelfJumpIsLeftOnlyByResetOrLoad := by
  intro s t hj h
  rcases step_cases s with ⟨hidle, e⟩ | ⟨op, rest, hp, e⟩
  · cases (e.trans (stepOp_of_selfJump _ hj)).symm.trans h
    exact ⟨fun _ => ⟨rfl, s.sampleInput_unchangedBut _⟩, .inl hj⟩
  · refine ⟨fun hidle => absurd (hp.symm.trans hidle) nofun, ?_⟩
    have hop := e.symm.trans h
    cases op with
    | reset => exact .inr (.inl ⟨rest, hp⟩)
    | load rom => exact .inr (.inr ⟨rom, rest, hp⟩)
    | step r =>
      cases (stepOp_of_selfJump r (s := s.setPending rest) hj).symm.trans hop
      exact .inl hj
    | tick | keyWrite keys | stateRead =>
      cases hop
      exact .inl hj

end Sys2Proof.Machine
end
